-- ==== Sys2Proof/Word.lean ====
section
/-! DEFINITION. The word types of I2CBB-1: the 32-bit host word, the byte, the single bit. -/

namespace Sys2Proof

/-- A host register or command word, 32 bits (00 R8 `REG_WIDTH`, 30 R301). -/
abbrev Word := BitVec 32

/-- A byte of the framebuffer or of the bus (20 R210). -/
abbrev Byte := BitVec 8

/-- One bit: a line output, an SDA sample, a one-bit register field. `true` is 1 (on a line: released, 10 R124). -/
abbrev Bit := Bool

end Sys2Proof
end

