-- ==== Sys2Proof/Config.lean ====
section
/-! DEFINITION. What is fixed when a device is built (the parameters of 00 R8), and the free values: constants without a
body, about which nothing can be proved but that they have their type. -/

namespace Sys2Proof

/-- BACKEND (00 R8, 40 R420): real pins, or the scripted environment. -/
inductive Backend where
  | real
  | fake
deriving DecidableEq, Repr, Inhabited

/-- GW (00 R8): a glyph has 5 or 6 columns. -/
inductive GlyphWidth where
  | five
  | six
deriving DecidableEq, Repr, Inhabited

/-- The construction parameters of one device (00 R8). They are held as plain data, so that a claim about the block is a
claim for every value of them (10 R128). Log 1. -/
structure Params where
  /-- BASE: host address of offset 0. Every rule speaks of offsets, so none reads it. Log 19. -/
  base : Nat
  /-- F_CLK: block clock frequency; timing only, no rule reads it (70 R812). -/
  fClk : Nat
  /-- DELAY_RESET. -/
  delayReset : BitVec 16
  /-- BACKEND. -/
  backend : Backend
  /-- FAKE_SCRIPT: the bits the scripted environment answers, in order (40 R420). -/
  fakeScript : List Bit
  /-- SENSOR_ADDR_RESET. -/
  sensorAddrReset : BitVec 7
  /-- DISPLAY_ADDR_RESET. -/
  displayAddrReset : BitVec 7
  /-- REG_PWR_MGMT (41 R503). -/
  regPwrMgmt : Byte
  /-- REG_DATA_FIRST (41 R505). -/
  regDataFirst : Byte
  /-- REG_SMPLRT_DIV (41 R504). -/
  regSmplrtDiv : Byte
  /-- REG_CONFIG (41 R504). -/
  regConfig : Byte
  /-- REG_GYRO_CONFIG (41 R504). -/
  regGyroConfig : Byte
  /-- REG_ACCEL_CONFIG (41 R504). -/
  regAccelConfig : Byte
  /-- INIT_SEQ: the display initialisation command bytes, in order (42 R605). -/
  initSeq : List Byte
  /-- OP_COLADDR (42 R607). -/
  opColAddr : Byte
  /-- OP_PAGEADDR (42 R607). -/
  opPageAddr : Byte
  /-- CHUNK_RESET (10 R121). -/
  chunkReset : BitVec 11
  /-- GW (42 R611). -/
  gw : GlyphWidth
  /-- FONT: character code and its GW column bytes, for the codes it is defined at (42 R610, R611). Log 17. -/
  font : List (Byte × List Byte)
  /-- DEGREE_CODE (42 R611). -/
  degreeCode : Byte
deriving DecidableEq, Repr, Inhabited

/-- The parameters of the device that `State.reset` builds: OPEN (00 R8), so no value of them is known. Log 1. -/
opaque Config.params : Params

/-- The environment's answer at the `n`-th SDA sample of a run under BACKEND = REAL: a free draw (40 R404). Log 6. -/
opaque Config.envSda : Nat → Bit

/-- The decimal text of a scaled sensor value, whose digits and rounding the spec leaves unspecified (41 R511). Log 21. -/
opaque Config.decimalText : Rat → String

end Sys2Proof
end

