-- ==== Sys2Proof/Machine/State.lean ====
section
/-! DEFINITION. The state of one I2CBB-1 device as plain data (10 R101): host-visible registers, framebuffer, lines, the
engine's hidden state, the line event trace; and, beside what the spec names, the agents around the block: the host's
remaining program, the environment's counters, and which agent moves next. -/

namespace Sys2Proof.Machine

/-- STATUS.PHASE (10 R111); value 3 is never produced. -/
inductive Phase where
  | idle
  | addressing
  | transfer
deriving DecidableEq, Repr, Inhabited

/-- STATUS.ERR (10 R112); codes 5 to 15 are never produced. -/
inductive ErrCode where
  | none
  | nack
  | illegal
  | seq
  | inval
deriving DecidableEq, Repr, Inhabited

/-- STATUS, its fields (10 R108 to R114). -/
structure Status where
  busy : Bit
  ack : Bit
  phase : Phase
  err : ErrCode
  nackCnt : Byte
  sampleValid : Bit
deriving DecidableEq, Repr, Inhabited

/-- The line state (10 R124). -/
structure Lines where
  /-- SCL_OUT. -/
  scl : Bit
  /-- SDA_OUT. -/
  sda : Bit
  /-- SDA_SAMPLED. -/
  sampled : Bit
deriving DecidableEq, Repr, Inhabited

/-- The registers a host can write, field by field (10 R106, R107, R118 to R121). -/
structure Regs where
  /-- CTRL.ABORT_ON_NACK. -/
  abortOnNack : Bit
  /-- DELAY.CYCLES. -/
  delay : BitVec 16
  /-- SNS_ADDR.ADDR. -/
  snsAddr : BitVec 7
  /-- DSP_ADDR.ADDR. -/
  dspAddr : BitVec 7
  /-- SNS_CFG. -/
  snsCfg : Word
  /-- CHUNK.SIZE. -/
  chunk : BitVec 11
deriving DecidableEq, Repr, Inhabited

/-- The seven sample registers (10 R122). -/
structure Samples where
  ax : Word
  ay : Word
  az : Word
  t : Word
  gx : Word
  gy : Word
  gz : Word
deriving DecidableEq, Repr, Inhabited

/-- FB (10 R123), by byte index. A byte that is not listed was never written since reset and has no value (70 R804).
Canonical form: `Memory.wf`. -/
abbrev Memory := List Host.Cell

/-- A line event (40 R401). -/
inductive Event where
  /-- `SCL0`, `SCL1`. -/
  | scl (v : Bit)
  /-- `SDA0`, `SDA1`. -/
  | sda (v : Bit)
  /-- `SMP0`, `SMP1`. -/
  | smp (b : Bit)
deriving DecidableEq, Repr

/-- Where a byte sent on the bus comes from: known when the command is accepted, or framebuffer byte `j` (42 R608). -/
inductive ByteSrc where
  | lit (b : Byte)
  | fb (j : Nat)
deriving DecidableEq, Repr

/-- One micro-step: a line write or an SDA sample (40 R401, R402), with the pseudocode that uses its result and that
comes before the next micro-step. -/
inductive Micro where
  /-- `scl(v)`. -/
  | scl (v : Bit)
  /-- `sda(v)`. -/
  | sda (v : Bit)
  /-- `sda(b[i])` of `p_write(b)` (40 R408). -/
  | sdaBit (src : ByteSrc) (i : Nat)
  /-- `a <- smp()` of `p_wait_ack` (40 R409): the bit stays in SDA_SAMPLED. -/
  | smp
  /-- `ENG.shift[i] <- smp()` of `p_read` (40 R410). -/
  | smpShift (i : Nat)
  /-- `scl(0)`, the last micro-step of a raw WAIT_ACK's `p_wait_ack`, then its `ENG.lastack` and `ENG.nacks` (40 R415). -/
  | ackRaw
  /-- `scl(0)`, the last micro-step of `w_ack`'s `p_wait_ack`, then the rest of `w_ack` (40 R423). -/
  | ackSeq
  /-- `scl(0)`, the last micro-step of SNS_READ's `p_read`, then `ENG.buf[k] <- ENG.shift` (41 R505). -/
  | keep (k : Fin 14)
deriving DecidableEq, Repr

/-- What a command's commit writes beside STATUS (10 R126). -/
inductive Product where
  | none
  /-- RXDATA (READ_BYTE). -/
  | rxData
  /-- The sample registers and SAMPLE_VALID (SNS_READ). -/
  | samples
deriving DecidableEq, Repr, Inhabited

/-- ENG.pos: what is left of the command's procedure, as the remaining list of micro-steps and what its commit does
(10 R125). Log 10. -/
structure Pos where
  todo : List Micro
  product : Product
  /-- Set by `abort NACK` (40 R424): the commit is that of an aborted command. -/
  aborted : Bit
deriving DecidableEq, Repr, Inhabited

/-- The engine's hidden state (10 R125). -/
structure Engine where
  cmd : Option Word
  pos : Pos
  buf : Vector Byte 14
  shift : Byte
  nacks : Byte
  lastack : Option Bit
  newphase : Phase
  settle : BitVec 16
deriving DecidableEq, Repr

/-- The engine with no command: what it holds outside the time from acceptance to commit (10 R125, 70 R803). Log 8. -/
def Engine.idle : Engine where
  cmd := none
  pos := ⟨[], .none, false⟩
  buf := Vector.replicate 14 0
  shift := 0
  nacks := 0
  lastack := none
  newphase := .idle
  settle := 0

/-- The environment's counters. -/
structure Env where
  /-- How many times `env_sda()` was called since the last reset: the index into FAKE_SCRIPT (40 R420). -/
  calls : Nat
  /-- The model's own: where the free draws of BACKEND = REAL have come to; a reset does not set it back. Log 6. -/
  draws : Nat
deriving DecidableEq, Repr, Inhabited

/-- One host operation (30 R311). An access has any size here; only 4 is legal (20 R201). Log 27. -/
inductive HostOp where
  /-- `MemRead(off, size)`. -/
  | read (off size : Nat)
  /-- `MemWrite(off, size, v)`. -/
  | write (off size : Nat) (v : Word)
  /-- `poll`: read STATUS until BUSY = 0. -/
  | poll
deriving DecidableEq, Repr

/-- The host agent, the model's own: its remaining program, and what its reads have returned, newest first (offset and
value). Log 2, log 12. -/
structure HostAgent where
  program : List HostOp
  reads : List (Nat × Word)
deriving DecidableEq, Repr, Inhabited

/-- Which agent moves (00 R5, R6; 70 R801). Log 3. -/
inductive Turn where
  | host
  | engine
  | reset
deriving DecidableEq, Repr

/-- The state of one device and of the agents around it. -/
structure State where
  /-- The construction parameters of this device; no step changes them (10 R128). -/
  par : Params
  regs : Regs
  status : Status
  /-- RXDATA.DATA (10 R116). -/
  rxData : Byte
  samples : Samples
  fb : Memory
  lines : Lines
  eng : Engine
  /-- The line event trace, newest event first (40 R401); `State.trace` is the trace in order. Log 20. -/
  traceRev : List Event
  env : Env
  host : HostAgent
  /-- The agents that move in the next steps; when it is empty the engine moves while BUSY = 1, else the host. Log 3. -/
  turns : List Turn
deriving DecidableEq, Repr

/-- The line event trace in the order the events happened (40 R401). -/
def State.trace (s : State) : List Event := s.traceRev.reverse

/-- Why a host access gets a BusError (60 R703). -/
inductive BusCause where
  | sizeOrAlignment
  | unmapped
  | readOnly
  | busy
deriving DecidableEq, Repr

/-- The reasons the machine stops. Both are faults of the host program. -/
inductive Fault where
  /-- BusError at an offset: raised by `hostRead` and `hostWrite`. "A model must treat a BusError as a fault of the host
  program" (60 R703). Safe: the model stops where a platform may go on. Log 11. -/
  | busError (cause : BusCause) (off : Nat)
  /-- A byte of FB that nothing has written since reset is read by the host or is to be sent by DSP_WRITE_FRAME (70 R804):
  raised by `fbWord` and `sourceByte`. Safe: the model stops where the hardware goes on with an unspecified value. -/
  | unwrittenFb (index : Nat)
deriving DecidableEq, Repr

/-- The reasons a step is refused. -/
inductive Refusal where
  /-- Raised by no arm: every command of the table has its meaning. Safe: the model would stop. -/
  | notModelled (mnemonic : String)
deriving DecidableEq, Repr

/-- The state after reset of a device built with parameters `p` (70 R802, R803, R804): registers at their reset values,
every FB byte unwritten, lines released, no command, an empty trace, the fake script at its start. -/
def State.resetWith (p : Params) : State where
  par := p
  regs :=
    { abortOnNack := true
      delay := p.delayReset
      snsAddr := p.sensorAddrReset
      dspAddr := p.displayAddrReset
      snsCfg := 0
      chunk := p.chunkReset }
  status :=
    { busy := false, ack := false, phase := .idle, err := .none, nackCnt := 0, sampleValid := false }
  rxData := 0
  samples := ⟨0, 0, 0, 0, 0, 0, 0⟩
  fb := []
  lines := ⟨true, true, true⟩
  eng := Engine.idle
  traceRev := []
  env := ⟨0, 0⟩
  host := ⟨[], []⟩
  turns := []

/-- The state after reset of the device whose parameters are `Config.params` (70 R802, R803). -/
def State.reset : State := State.resetWith Config.params

end Sys2Proof.Machine
end

