-- ==== Sys2Proof/Machine/Flags.lean ====
section
/-! DEFINITION. The STATUS fields and how they are computed: the only flags of the block (10 R131). -/

namespace Sys2Proof.Machine

/-- `sat8(n + 1)` on an 8-bit counter: it stops at 255 (00 R10, 40 R427). -/
def sat8Succ (n : Byte) : Byte :=
  if n = 255 then 255 else n + 1

/-- `sat8(n) = min(n, 255)` (00 R10). -/
def sat8 (n : Nat) : Byte := BitVec.ofNat 8 (min n 255)

/-- The result of an ack-wait: ACK when SDA was sampled 0 (40 R409). -/
def ackOfSample (b : Bit) : Bit := !b

/-- The encoding of PHASE (10 R111). -/
def phaseCode : Phase → BitVec 2
  | .idle => 0
  | .addressing => 1
  | .transfer => 2

/-- The encoding of ERR (10 R112). -/
def errCode : ErrCode → BitVec 4
  | .none => 0
  | .nack => 1
  | .illegal => 2
  | .seq => 3
  | .inval => 4

/-- A bit as a one-bit vector. -/
def bit1 (b : Bit) : BitVec 1 := BitVec.ofBool b

/-- STATUS as the host reads it (10 R108): bits 31:17 read 0. -/
def statusWord (st : Status) : Word :=
  0#15 ++ (bit1 st.sampleValid ++ (st.nackCnt ++ (errCode st.err ++ (phaseCode st.phase ++ (bit1 st.ack ++ bit1 st.busy)))))

/-- LINES as the host reads it (10 R117): bits 31:3 read 0. -/
def linesWord (l : Lines) : Word :=
  0#29 ++ (bit1 l.sampled ++ (bit1 l.sda ++ bit1 l.scl))

/-- ACK after a commit: 0 after an abort (40 R424); else the last ack-wait's result; unchanged if the command had none
(10 R110, R126). -/
def committedAck (aborted : Bit) (lastack : Option Bit) (old : Bit) : Bit :=
  if aborted then false else lastack.getD old

/-- ERR after a commit: NACK after an abort, else NONE (10 R126). -/
def committedErr (aborted : Bit) : ErrCode :=
  if aborted then .nack else .none

/-- SAMPLE_VALID after a commit: only SNS_READ changes it, to 0 when it aborted and to 1 when it did not (10 R114). -/
def committedValid (product : Product) (aborted old : Bit) : Bit :=
  match product with
  | .samples => !aborted
  | .none | .rxData => old

end Sys2Proof.Machine
end

