-- ==== Sys2Proof/Machine/Operands.lean ====
section
/-! DEFINITION. Operand forms: the bytes a command puts on the bus, its chunk and glyph lists, and the decoding of the sensor
samples. -/

namespace Sys2Proof.Machine

/-- FRAME_BYTES (00 R8). -/
def frameBytes : Nat := 1024

/-- The bit indices of a byte in bus order, most significant first (00 R11). -/
def bitsMsbFirst : List Nat := [7, 6, 5, 4, 3, 2, 1, 0]

/-- Bit `i` of a byte (00 R9). -/
def bitOf (b : Byte) (i : Nat) : Bit := b.getLsbD i

/-- The byte with bit `i` set to `v` (`ENG.shift[i] <- v`, 40 R410). -/
def setBit (b : Byte) (i : Nat) (v : Bit) : Byte :=
  let m := (1#8) <<< i
  if v then b ||| m else b &&& ~~~m

/-- The address byte `a7, RW`: the address in bits 7:1, RW in bit 0, 0 for write and 1 for read (10 R129). -/
def addressByte (a7 : BitVec 7) (rw : BitVec 1) : Byte := a7 ++ rw

/-- The control byte of display commands (42 R602). -/
def controlCommand : Byte := 0x00

/-- The control byte of display data (42 R602). -/
def controlData : Byte := 0x40

/-- The byte SNS_WAKE writes (41 R503). -/
def wakeValue : Byte := 0x00

/-- SNS_CFG[7:0], the sample rate divider (10 R120). -/
def cfgSmplrtDiv (cfg : Word) : Byte := cfg.extractLsb' 0 8

/-- SNS_CFG[15:8], the low-pass setting (10 R120). -/
def cfgDlpf (cfg : Word) : Byte := cfg.extractLsb' 8 8

/-- SNS_CFG[23:16], the gyro range (10 R120). -/
def cfgGyroRange (cfg : Word) : Byte := cfg.extractLsb' 16 8

/-- SNS_CFG[31:24], the accelerometer range (10 R120). -/
def cfgAccelRange (cfg : Word) : Byte := cfg.extractLsb' 24 8

/-- The page-select command byte, `0xB0 OR zext_8(PAGE)` (42 R613). -/
def cursorPage (page : BitVec 3) : Byte := 0xB0 ||| page.zeroExtend 8

/-- The low-nibble column command byte, `0x00 OR zext_8(COL[3:0])` (42 R613). -/
def cursorColLow (col : BitVec 7) : Byte := 0x00 ||| (col.extractLsb' 0 4).zeroExtend 8

/-- The high-nibble column command byte, `0x10 OR zext_8(COL[6:4])` (42 R613). -/
def cursorColHigh (col : BitVec 7) : Byte := 0x10 ||| (col.extractLsb' 4 3).zeroExtend 8

/-- GW as a number of columns (00 R8). -/
def glyphColumns : GlyphWidth → Nat
  | .five => 5
  | .six => 6

/-- FONT at a character code, where it is defined (42 R610). Log 17. -/
def fontAt (p : Params) (c : Byte) : Option (List Byte) :=
  (p.font.find? (·.1 == c)).map (·.2)

/-- `glyph(c)`: FONT's columns, or the blank glyph where FONT is not defined (42 R610, 60 R718). -/
def glyph (p : Params) (c : Byte) : List Byte :=
  (fontAt p c).getD (List.replicate (glyphColumns p.gw) 0)

/-- The number of chunks of a frame, `ceil(1024 / C)` (42 R608, 40 R427). -/
def chunkCount (c : Nat) : Nat := (frameBytes + c - 1) / c

/-- The FB indices of chunk `k`: `k*C .. min(k*C + C, 1024) - 1` (42 R608). -/
def chunkIndices (c k : Nat) : List Nat :=
  List.range' (k * c) (min (k * c + c) frameBytes - k * c)

/-- The chunks of a frame, in increasing `k` (42 R608). -/
def frameChunks (c : Nat) : List (List Nat) :=
  (List.range (chunkCount c)).map (chunkIndices c)

/-- The acceptance check of DSP_WRITE_FRAME fails: LEN is not 1024, or CHUNK.SIZE is outside 1 to 1024 (30 R312, 42 R609). -/
def frameInvalid (len chunk : BitVec 11) : Bool :=
  len != 1024 || chunk == 0 || decide (1024 < chunk.toNat)

/-- A big-endian 16-bit value of two bytes, high byte first (41 R506). -/
def v16 (hi lo : Byte) : BitVec 16 := hi ++ lo

/-- `sext_32` of a sample field (10 R122, 41 R507). -/
def sampleWord (v : BitVec 16) : Word := v.signExtend 32

/-- Field `i` of a 14-byte burst (41 R506). -/
def burstField (buf : Vector Byte 14) (i : Fin 7) : BitVec 16 :=
  v16 buf[2 * i.val] buf[2 * i.val + 1]

/-- The seven sample registers of a burst (41 R506, R507). -/
def decodeBurst (buf : Vector Byte 14) : Samples where
  ax := sampleWord (burstField buf 0)
  ay := sampleWord (burstField buf 1)
  az := sampleWord (burstField buf 2)
  t := sampleWord (burstField buf 3)
  gx := sampleWord (burstField buf 4)
  gy := sampleWord (burstField buf 5)
  gz := sampleWord (burstField buf 6)

/-- Byte `k` of a 32-bit word, bits `8k+7 : 8k` (10 R123, 20 R202). -/
def wordByte (v : Word) (k : Nat) : Byte := v.extractLsb' (8 * k) 8

/-- The little-endian word of four bytes (10 R123, 20 R202). -/
def wordOfBytes (b0 b1 b2 b3 : Byte) : Word := b3 ++ (b2 ++ (b1 ++ b0))

end Sys2Proof.Machine
end

