-- ==== Sys2Proof/Machine/Ops.lean ====
section
/-! DEFINITION. The named operations: framebuffer access, the line micro-steps, the environment's answer, rejecting a command
(`raise CmdError`), accepting one, aborting one (`abort NACK`), committing one, and reset. -/

namespace Sys2Proof.Machine

/-! ### The framebuffer -/

/-- The canonical form of FB: indices strictly rising, all below 1024. -/
abbrev Memory.wf (m : Memory) : Prop :=
  m.Pairwise (fun x y => x.1 < y.1) ∧ ∀ c ∈ m, c.1 < frameBytes

/-- FB[a], or nothing where no write has reached it since reset (70 R804). -/
def Memory.read : Memory → Nat → Option Byte
  | [], _ => none
  | (k, v) :: m, a => if k = a then some v else Memory.read m a

/-- `FB[a] <- b`, keeping the canonical form. -/
def Memory.write : Memory → Nat → Byte → Memory
  | [], a, b => [(a, b)]
  | (k, v) :: m, a, b =>
    if a < k then (a, b) :: (k, v) :: m
    else if a = k then (a, b) :: m
    else (k, v) :: Memory.write m a b

/-- Framebuffer word `j` as the host reads it (10 R123); an unwritten byte faults (70 R804). -/
def fbWord (m : Memory) (j : Nat) : Except Fault Word :=
  match m.read (4 * j), m.read (4 * j + 1), m.read (4 * j + 2), m.read (4 * j + 3) with
  | some b0, some b1, some b2, some b3 => .ok (wordOfBytes b0 b1 b2 b3)
  | none, _, _, _ => .error (.unwrittenFb (4 * j))
  | _, none, _, _ => .error (.unwrittenFb (4 * j + 1))
  | _, _, none, _ => .error (.unwrittenFb (4 * j + 2))
  | _, _, _, none => .error (.unwrittenFb (4 * j + 3))

/-- A host write of framebuffer word `j` (10 R123, 20 R202). -/
def fbWriteWord (m : Memory) (j : Nat) (v : Word) : Memory :=
  (((m.write (4 * j) (wordByte v 0)).write (4 * j + 1) (wordByte v 1)).write (4 * j + 2) (wordByte v 2)).write
    (4 * j + 3) (wordByte v 3)

/-- The byte a source stands for (42 R608); an unwritten FB byte faults (70 R804). Log 7. -/
def sourceByte (m : Memory) : ByteSrc → Except Fault Byte
  | .lit b => .ok b
  | .fb j =>
    match m.read j with
    | some b => .ok b
    | none => .error (.unwrittenFb j)

/-! ### Lines -/

/-- `emit(e)`: append `e` to the line event trace (40 R401). -/
def emit (e : Event) (s : State) : State :=
  { s with traceRev := e :: s.traceRev }

/-- `settle()`: the wait of DELAY.CYCLES block clocks begins (40 R403, 60 R712). Log 5. -/
def settle (s : State) : State :=
  { s with eng := { s.eng with settle := s.regs.delay } }

/-- The settle wait of the last line write is over: the down-counter has reached 0 (40 R403). Log 5. -/
def settled (s : State) : State :=
  { s with eng := { s.eng with settle := 0 } }

/-- `scl(v)` (40 R401). -/
def scl (v : Bit) (s : State) : State :=
  settle (emit (.scl v) { s with lines := { s.lines with scl := v } })

/-- `sda(v)` (40 R401). -/
def sda (v : Bit) (s : State) : State :=
  settle (emit (.sda v) { s with lines := { s.lines with sda := v } })

/-- What `env_sda()` answers on its next call: the fake script, then 1 (40 R420), or a free draw (40 R404). Log 6. -/
def envSda (s : State) : Bit :=
  match s.par.backend with
  | .fake => s.par.fakeScript.getD s.env.calls true
  | .real => Config.envSda s.env.draws

/-- One call of `env_sda()` has been made. -/
def countCall (s : State) : State :=
  { s with env := ⟨s.env.calls + 1, s.env.draws + 1⟩ }

/-- The bit a sample taken now would read: `SDA_OUT AND env_sda()` (40 R402, 10 R124). -/
def sdaLevel (s : State) : Bit := s.lines.sda && envSda s

/-- `smp()` (40 R402): the sampled bit stays in SDA_SAMPLED. No settle follows. -/
def smp (s : State) : State :=
  countCall (emit (.smp (sdaLevel s)) { s with lines := { s.lines with sampled := sdaLevel s } })

/-- `ENG.shift[i] <- smp()` (40 R410). -/
def smpShift (i : Nat) (s : State) : State :=
  smp { s with eng := { s.eng with shift := setBit s.eng.shift i (sdaLevel s) } }

/-- The levels the block drives on its pins SCL and SDA: under BACKEND = FAKE they stay released (40 R420). Log 18. -/
def pins (s : State) : Bit × Bit :=
  match s.par.backend with
  | .real => (s.lines.scl, s.lines.sda)
  | .fake => (true, true)

/-! ### Rejecting, accepting, aborting, committing -/

/-- `raise CmdError(code)`, the block's one way of rejecting a command: ERR and NACKCNT are written, all else stays
(60 R702). -/
def cmdError (code : ErrCode) (s : State) : State :=
  { s with status := { s.status with err := code, nackCnt := 0 } }

/-- Acceptance (30 R312): BUSY, and the engine loaded with the command word, its procedure, what its commit writes and the
phase it commits. Log 8, log 9. -/
def accept (cmd : Word) (procedure : List Micro) (product : Product) (newphase : Phase) (s : State) : State :=
  { s with
    status := { s.status with busy := true }
    eng := { Engine.idle with cmd := some cmd, pos := ⟨procedure, product, false⟩, newphase := newphase } }

/-- The micro-steps of `p_stop()` (40 R407). -/
def pStop : List Micro := [.sda false, .scl true, .sda true]

/-- `abort NACK`, the transport error (40 R424, 60 R704): the rest of the procedure is dropped for a STOP, after which the
command commits as aborted. There is no return from it (60 R708): the commit ends the command. -/
def abortNack (s : State) : State :=
  { s with eng := { s.eng with pos := ⟨pStop, s.eng.pos.product, true⟩, newphase := .idle } }

/-- The end of a raw WAIT_ACK's ack-wait (40 R415). -/
def noteAckRaw (s : State) : State :=
  let a := ackOfSample s.lines.sampled
  { s with eng := { s.eng with lastack := some a, nacks := if a then s.eng.nacks else 1 } }

/-- The end of `w_ack()` (40 R423): the result is kept and counted; a NACK aborts under CTRL.ABORT_ON_NACK = 1. -/
def noteAckSeq (s : State) : State :=
  let a := ackOfSample s.lines.sampled
  let s' := { s with eng := { s.eng with lastack := some a, nacks := if a then s.eng.nacks else sat8Succ s.eng.nacks } }
  if !a && s.regs.abortOnNack then abortNack s' else s'

/-- `ENG.buf[k] <- ENG.shift` (41 R505). -/
def keepByte (k : Fin 14) (s : State) : State :=
  { s with eng := { s.eng with buf := s.eng.buf.set k s.eng.shift } }

/-- Commit: one atomic update at the end of an accepted command (10 R126, 40 R424, R425, 41 R507). -/
def commit (s : State) : State :=
  { s with
    status :=
      { busy := false
        ack := committedAck s.eng.pos.aborted s.eng.lastack s.status.ack
        phase := s.eng.newphase
        err := committedErr s.eng.pos.aborted
        nackCnt := s.eng.nacks
        sampleValid := committedValid s.eng.pos.product s.eng.pos.aborted s.status.sampleValid }
    rxData := match s.eng.pos.product with
      | .rxData => s.eng.shift
      | .none | .samples => s.rxData
    samples := match s.eng.pos.product, s.eng.pos.aborted with
      | .samples, false => decodeBurst s.eng.buf
      | _, _ => s.samples
    eng := Engine.idle }

/-- The reset input (70 R801 to R805), also in the middle of a command: the device is as `State.resetWith` builds it. The
agents around it go on: the host's program and reads, the turns, the free draws. Log 14. -/
def resetInput (s : State) : State :=
  { State.resetWith s.par with env := ⟨0, s.env.draws⟩, host := s.host, turns := s.turns }

end Sys2Proof.Machine
end

