-- ==== Sys2Proof/Machine/Primitives.lean ====
section
/-! DEFINITION. The bus primitives (40 R406 to R410) and the transaction machinery of the sequencer commands (40 R423, R426;
41 R502; 42 R603, R604), as the micro-steps they take. Log 25. `p_stop` stands in Ops.lean, beside the abort that needs it. -/

namespace Sys2Proof.Machine

/-- `p_start()` (40 R406). -/
def pStart : List Micro := [.sda true, .scl true, .sda false, .scl false]

/-- `p_write(b)` (40 R408). -/
def pWrite (src : ByteSrc) : List Micro :=
  bitsMsbFirst.flatMap fun i => [.sdaBit src i, .scl true, .scl false]

/-- `p_wait_ack()` (40 R409); `last` is its `scl(0)` with what the caller does with the result. -/
def pWaitAck (last : Micro) : List Micro := [.sda true, .scl true, .smp, last]

/-- `p_read(k)` (40 R410); `last` is its final `scl(0)` with what the caller does with the byte. -/
def pRead (k : Bit) (last : Micro) : List Micro :=
  [.sda true] ++ bitsMsbFirst.flatMap (fun i => [.scl true, .smpShift i, .scl false]) ++ [.sda (!k), .scl true, last]

/-- `p_write(b) ; w_ack()` (40 R423). -/
def ackedWrite (src : ByteSrc) : List Micro := pWrite src ++ pWaitAck .ackSeq

/-- `wr_txn(a7, bytes)`, one write transaction (40 R426). -/
def wrTxn (a7 : BitVec 7) (bytes : List ByteSrc) : List Micro :=
  pStart ++ ackedWrite (.lit (addressByte a7 0)) ++ bytes.flatMap ackedWrite ++ pStop

/-- `reg_txn(r, v)`, a sensor register write (41 R502). -/
def regTxn (s : State) (r v : Byte) : List Micro :=
  wrTxn s.regs.snsAddr [.lit r, .lit v]

/-- `cmd_txn(b)`, a display command byte (42 R603). -/
def cmdTxn (s : State) (b : Byte) : List Micro :=
  wrTxn s.regs.dspAddr [.lit controlCommand, .lit b]

/-- `data_txn(d)`, a run of display data bytes (42 R604). -/
def dataTxn (s : State) (d : List ByteSrc) : List Micro :=
  wrTxn s.regs.dspAddr (.lit controlData :: d)

/-- A raw command is accepted in ADDRESSING and TRANSFER; in IDLE it is CmdError(SEQ) (30 R312, 40 R411). -/
def acceptRaw (cmd : Word) (procedure : List Micro) (product : Product) (newphase : Phase) (s : State) :
    Host.Outcome State Fault Refusal :=
  if s.status.phase = .idle then .next (cmdError .seq s) else .next (accept cmd procedure product newphase s)

/-- A sequencer command is accepted in IDLE only and ends in IDLE; otherwise it is CmdError(SEQ) (30 R312, 40 R422). -/
def acceptSequencer (cmd : Word) (procedure : List Micro) (product : Product) (s : State) :
    Host.Outcome State Fault Refusal :=
  if s.status.phase ≠ .idle then .next (cmdError .seq s) else .next (accept cmd procedure product .idle s)

end Sys2Proof.Machine
end

