-- ==== Sys2Proof/Machine/Engine.lean ====
section
/-! DEFINITION. The engine's steps: one micro-step of the running command, or its commit (40 R401, R402; 10 R103, R126). -/

namespace Sys2Proof.Machine

/-- One micro-step (40 R401, R402). Only sending an FB byte that was never written can stop it (70 R804). -/
def microStep (m : Micro) (s : State) : Host.Outcome State Fault Refusal :=
  match m with
  | .scl v => .next (scl v s)
  | .sda v => .next (sda v s)
  | .sdaBit src i =>
    match sourceByte s.fb src with
    | .ok b => .next (sda (bitOf b i) s)
    | .error f => .fault f
  | .smp => .next (smp s)
  | .smpShift i => .next (smpShift i s)
  | .ackRaw => .next (noteAckRaw (scl false s))
  | .ackSeq => .next (noteAckSeq (scl false s))
  | .keep k => .next (keepByte k (scl false s))

/-- The position moves past one micro-step (10 R103). -/
def setTodo (todo : List Micro) (s : State) : State :=
  { s with eng := { s.eng with pos := { s.eng.pos with todo := todo } } }

/-- The engine's turn. While BUSY = 1: once the settle wait of the last line write is over, the next micro-step, or the
commit when none is left (10 R103, R126). While BUSY = 0 the engine does nothing. Log 4, log 5. -/
def engineTurn (s : State) : Host.Outcome State Fault Refusal :=
  if s.status.busy then
    match s.eng.pos.todo with
    | [] => .next (commit s)
    | m :: rest => microStep m (settled (setTodo rest s))
  else .next s

end Sys2Proof.Machine
end

