-- ==== Sys2Proof/Syntax.lean ====
section
/-! DEFINITION. The 13 commands of I2CBB-1, one constructor per row of spec/opcode_table.json (30 R305), in the
table's order. An operand has the width of its field, so every value a field can hold is an operand and no other is
(30 R304). -/

namespace Sys2Proof

/-- A command of the block (00 R3, 30 R305). -/
inductive Instr where
  /-- START: START or repeated START condition (40 R412). -/
  | start
  /-- STOP: STOP condition (40 R413). -/
  | stop
  /-- WRITE_BYTE: send `byte`, no acknowledge check (40 R414). -/
  | writeByte (byte : BitVec 8)
  /-- WAIT_ACK: clock and sample the acknowledge bit (40 R415). -/
  | waitAck
  /-- READ_BYTE: receive a byte, then send ACK (`ack` = 1) or NACK (`ack` = 0) (40 R416). -/
  | readByte (ack : BitVec 1)
  /-- SNS_WAKE (41 R503). -/
  | snsWake
  /-- SNS_CONFIG (41 R504). -/
  | snsConfig
  /-- SNS_READ (41 R505). -/
  | snsRead
  /-- DSP_INIT (42 R606). -/
  | dspInit
  /-- DSP_SET_WINDOW: column range `cs` to `ce`, page range `ps` to `pe` (42 R607). -/
  | dspSetWindow (cs ce : BitVec 7) (ps pe : BitVec 3)
  /-- DSP_WRITE_FRAME: the host asserts the frame length `len` (42 R609). -/
  | dspWriteFrame (len : BitVec 11)
  /-- DSP_PUTCHAR: draw the character of code `byte` (42 R612). -/
  | dspPutchar (byte : BitVec 8)
  /-- DSP_SET_CURSOR (42 R613). -/
  | dspSetCursor (page : BitVec 3) (col : BitVec 7)
deriving DecidableEq, Repr

end Sys2Proof
end

