-- ==== Sys2Proof/Decode.lean ====
section
/-! DEFINITION. The command decoder and encoder (30 R301 to R308): the opcode map of R305 as rows of match and mask, decoding
by those rows, and the encoder from the format tables of R303. -/

namespace Sys2Proof

/-- The class of a command: raw or sequencer (30 R305). -/
inductive CmdClass where
  | raw
  | sequencer
deriving DecidableEq, Repr

/-- One row of the opcode map (30 R305): its words, its class, and the command whose operands are the fields of R304. -/
structure Row where
  mnemonic : String
  op : Byte
  pattern : Word
  mask : Word
  cls : CmdClass
  build : Word → Instr

/-- A word selects a row when `(w AND mask) == match` (30 R305). -/
def Row.selects (r : Row) (w : Word) : Bool :=
  w &&& r.mask == r.pattern

/-- BYTE = w[7:0] (30 R304). -/
def fieldByte (w : Word) : BitVec 8 := w.extractLsb' 0 8

/-- ACK = w[0] (30 R304). -/
def fieldAck (w : Word) : BitVec 1 := w.extractLsb' 0 1

/-- PAGE = w[10:8] (30 R304). -/
def fieldPage (w : Word) : BitVec 3 := w.extractLsb' 8 3

/-- COL = w[6:0] (30 R304). -/
def fieldCol (w : Word) : BitVec 7 := w.extractLsb' 0 7

/-- CS = w[6:0] (30 R304). -/
def fieldCs (w : Word) : BitVec 7 := w.extractLsb' 0 7

/-- CE = w[14:8] (30 R304). -/
def fieldCe (w : Word) : BitVec 7 := w.extractLsb' 8 7

/-- PS = w[18:16] (30 R304). -/
def fieldPs (w : Word) : BitVec 3 := w.extractLsb' 16 3

/-- PE = w[22:20] (30 R304). -/
def fieldPe (w : Word) : BitVec 3 := w.extractLsb' 20 3

/-- LEN = w[10:0] (30 R304). -/
def fieldLen (w : Word) : BitVec 11 := w.extractLsb' 0 11

/-- OP = w[31:24] (30 R302). -/
def fieldOp (w : Word) : Byte := w.extractLsb' 24 8

/-- The opcode map, the 13 rows of 30 R305 in the manual's order. -/
def opcodeMap : List Row :=
  [ ⟨"START", 0x01, 0x01000000, 0xFFFFFFFF, .raw, fun _ => .start⟩,
    ⟨"STOP", 0x02, 0x02000000, 0xFFFFFFFF, .raw, fun _ => .stop⟩,
    ⟨"WRITE_BYTE", 0x03, 0x03000000, 0xFFFFFF00, .raw, fun w => .writeByte (fieldByte w)⟩,
    ⟨"WAIT_ACK", 0x04, 0x04000000, 0xFFFFFFFF, .raw, fun _ => .waitAck⟩,
    ⟨"READ_BYTE", 0x05, 0x05000000, 0xFFFFFFFE, .raw, fun w => .readByte (fieldAck w)⟩,
    ⟨"SNS_WAKE", 0x10, 0x10000000, 0xFFFFFFFF, .sequencer, fun _ => .snsWake⟩,
    ⟨"SNS_CONFIG", 0x11, 0x11000000, 0xFFFFFFFF, .sequencer, fun _ => .snsConfig⟩,
    ⟨"SNS_READ", 0x12, 0x12000000, 0xFFFFFFFF, .sequencer, fun _ => .snsRead⟩,
    ⟨"DSP_INIT", 0x20, 0x20000000, 0xFFFFFFFF, .sequencer, fun _ => .dspInit⟩,
    ⟨"DSP_SET_WINDOW", 0x21, 0x21000000, 0xFF888080, .sequencer,
      fun w => .dspSetWindow (fieldCs w) (fieldCe w) (fieldPs w) (fieldPe w)⟩,
    ⟨"DSP_WRITE_FRAME", 0x22, 0x22000000, 0xFFFFF800, .sequencer, fun w => .dspWriteFrame (fieldLen w)⟩,
    ⟨"DSP_PUTCHAR", 0x23, 0x23000000, 0xFFFFFF00, .sequencer, fun w => .dspPutchar (fieldByte w)⟩,
    ⟨"DSP_SET_CURSOR", 0x24, 0x24000000, 0xFFFFF880, .sequencer,
      fun w => .dspSetCursor (fieldPage w) (fieldCol w)⟩ ]

/-- Why a word is illegal (30 R306): the two kinds the rule lists. -/
inductive DecodeRefusal where
  /-- OP is none of the 13 values of R305. -/
  | unknownOp
  /-- A listed OP with a 1 in a bit its format marks 0. -/
  | mustBeZeroBit
deriving DecidableEq, Repr

/-- The decoder, total on 32-bit words: the row the word selects, or the kind of illegal word it is (30 R305, R306,
R308: the word alone decides). -/
def decodeWord (w : Word) : Except DecodeRefusal Instr :=
  match opcodeMap.find? (·.selects w) with
  | some r => .ok (r.build w)
  | none => .error (if opcodeMap.any (·.op == fieldOp w) then .mustBeZeroBit else .unknownOp)

/-- Format N (30 R303): OP, then 24 zero bits. -/
def formatN (op : Byte) : Word := op ++ 0#24

/-- Format B (30 R303). -/
def formatB (op byte : Byte) : Word := op ++ (0#16 ++ byte)

/-- Format R (30 R303). -/
def formatR (op : Byte) (ack : BitVec 1) : Word := op ++ (0#23 ++ ack)

/-- Format C (30 R303). -/
def formatC (op : Byte) (page : BitVec 3) (col : BitVec 7) : Word :=
  op ++ (0#13 ++ (page ++ (0#1 ++ col)))

/-- Format W (30 R303). -/
def formatW (op : Byte) (cs ce : BitVec 7) (ps pe : BitVec 3) : Word :=
  op ++ (0#1 ++ (pe ++ (0#1 ++ (ps ++ (0#1 ++ (ce ++ (0#1 ++ cs)))))))

/-- Format L (30 R303). -/
def formatL (op : Byte) (len : BitVec 11) : Word := op ++ (0#13 ++ len)

/-- The encoder: the word of a command (30 R303, R305). -/
def encode : Instr → Word
  | .start => formatN 0x01
  | .stop => formatN 0x02
  | .writeByte byte => formatB 0x03 byte
  | .waitAck => formatN 0x04
  | .readByte ack => formatR 0x05 ack
  | .snsWake => formatN 0x10
  | .snsConfig => formatN 0x11
  | .snsRead => formatN 0x12
  | .dspInit => formatN 0x20
  | .dspSetWindow cs ce ps pe => formatW 0x21 cs ce ps pe
  | .dspWriteFrame len => formatL 0x22 len
  | .dspPutchar byte => formatB 0x23 byte
  | .dspSetCursor page col => formatC 0x24 page col

/-- The word whose low `nbits` bits are those of `w` and whose other bits are 0. A command is one 32-bit word (30 R301), so
bit 0 of the word is bit 0 of the table's numbering. Log 22. -/
def tableWord (nbits w : Nat) : Word := BitVec.ofNat 32 (w % 2 ^ nbits)

/-- The command the decoder reads from the table's word `w` of `nbits` bits. Log 22. -/
def decodeTableWord (nbits w : Nat) : Option Instr :=
  match decodeWord (tableWord nbits w) with
  | .ok i => some i
  | .error _ => none

end Sys2Proof
end

