-- ==== Sys2Proof/Machine/DisplaySequencer.lean ====
section
/-! DEFINITION. The display framebuffer and command sequencer (42 R602 to R613): DSP_INIT, DSP_SET_WINDOW, DSP_WRITE_FRAME,
DSP_PUTCHAR, DSP_SET_CURSOR. -/

namespace Sys2Proof.Machine

/-- DSP_INIT (42 R606): INIT_SEQ, one command transaction a byte. Log 16 for an empty INIT_SEQ. -/
def execDspInit (s : State) : Host.Outcome State Fault Refusal :=
  acceptSequencer (encode .dspInit) (s.par.initSeq.flatMap (cmdTxn s)) .none s

/-- The six command bytes of DSP_SET_WINDOW (42 R607). -/
def windowBytes (p : Params) (cs ce : BitVec 7) (ps pe : BitVec 3) : List Byte :=
  [p.opColAddr, cs.zeroExtend 8, ce.zeroExtend 8, p.opPageAddr, ps.zeroExtend 8, pe.zeroExtend 8]

/-- DSP_SET_WINDOW (42 R607): sent as given, no range check. -/
def execDspSetWindow (cs ce : BitVec 7) (ps pe : BitVec 3) (s : State) : Host.Outcome State Fault Refusal :=
  acceptSequencer (encode (.dspSetWindow cs ce ps pe)) ((windowBytes s.par cs ce ps pe).flatMap (cmdTxn s)) .none s

/-- The procedure of DSP_WRITE_FRAME: one data transaction a chunk (42 R608, R609). -/
def frameProcedure (s : State) : List Micro :=
  (frameChunks s.regs.chunk.toNat).flatMap fun c => dataTxn s (c.map .fb)

/-- DSP_WRITE_FRAME (42 R609, 30 R312): SEQ is checked before INVAL (60 R706). -/
def execDspWriteFrame (len : BitVec 11) (s : State) : Host.Outcome State Fault Refusal :=
  if s.status.phase = .idle ∧ frameInvalid len s.regs.chunk = true then .next (cmdError .inval s)
  else acceptSequencer (encode (.dspWriteFrame len)) (frameProcedure s) .none s

/-- The data bytes of DSP_PUTCHAR: the glyph's columns, then one blank column (42 R612). -/
def charBytes (p : Params) (c : Byte) : List Byte := glyph p c ++ [0x00]

/-- DSP_PUTCHAR (42 R612). -/
def execDspPutchar (byte : BitVec 8) (s : State) : Host.Outcome State Fault Refusal :=
  acceptSequencer (encode (.dspPutchar byte)) (dataTxn s ((charBytes s.par byte).map .lit)) .none s

/-- The three command bytes of DSP_SET_CURSOR (42 R613). -/
def cursorBytes (page : BitVec 3) (col : BitVec 7) : List Byte :=
  [cursorPage page, cursorColLow col, cursorColHigh col]

/-- DSP_SET_CURSOR (42 R613). -/
def execDspSetCursor (page : BitVec 3) (col : BitVec 7) (s : State) : Host.Outcome State Fault Refusal :=
  acceptSequencer (encode (.dspSetCursor page col)) ((cursorBytes page col).flatMap (cmdTxn s)) .none s

end Sys2Proof.Machine
end

