-- ==== Sys2Proof/Machine/RawCommands.lean ====
section
/-! DEFINITION. The five raw commands (40 R411 to R416): what a CMD write of each does, that is its acceptance with the
procedure the engine then runs. Each performs one primitive and commits. -/

namespace Sys2Proof.Machine

/-- START (40 R412): accepted in every phase. -/
def execStart (s : State) : Host.Outcome State Fault Refusal :=
  .next (accept (encode .start) pStart .none .addressing s)

/-- STOP (40 R413). -/
def execStop (s : State) : Host.Outcome State Fault Refusal :=
  acceptRaw (encode .stop) pStop .none .idle s

/-- WRITE_BYTE (40 R414). -/
def execWriteByte (byte : BitVec 8) (s : State) : Host.Outcome State Fault Refusal :=
  acceptRaw (encode (.writeByte byte)) (pWrite (.lit byte)) .none .transfer s

/-- WAIT_ACK (40 R415, R419): CTRL.ABORT_ON_NACK is not read. -/
def execWaitAck (s : State) : Host.Outcome State Fault Refusal :=
  acceptRaw (encode .waitAck) (pWaitAck .ackRaw) .none .transfer s

/-- READ_BYTE (40 R416). -/
def execReadByte (ack : BitVec 1) (s : State) : Host.Outcome State Fault Refusal :=
  acceptRaw (encode (.readByte ack)) (pRead (ack == 1) (.scl false)) .rxData .transfer s

end Sys2Proof.Machine
end

