-- ==== Sys2Proof/Machine/SensorReader.lean ====
section
/-! DEFINITION. The sensor register-burst reader (41 R501 to R507): SNS_WAKE, SNS_CONFIG, SNS_READ. -/

namespace Sys2Proof.Machine

/-- SNS_WAKE (41 R503): 0x00 to the power-management register. -/
def execSnsWake (s : State) : Host.Outcome State Fault Refusal :=
  acceptSequencer (encode .snsWake) (regTxn s s.par.regPwrMgmt wakeValue) .none s

/-- The four register writes of SNS_CONFIG (41 R504). -/
def configProcedure (s : State) : List Micro :=
  regTxn s s.par.regSmplrtDiv (cfgSmplrtDiv s.regs.snsCfg)
    ++ regTxn s s.par.regConfig (cfgDlpf s.regs.snsCfg)
    ++ regTxn s s.par.regGyroConfig (cfgGyroRange s.regs.snsCfg)
    ++ regTxn s s.par.regAccelConfig (cfgAccelRange s.regs.snsCfg)

/-- SNS_CONFIG (41 R504). -/
def execSnsConfig (s : State) : Host.Outcome State Fault Refusal :=
  acceptSequencer (encode .snsConfig) (configProcedure s) .none s

/-- The indices of the 14 burst bytes (41 R505). -/
def burstIndices : List (Fin 14) := [0, 1, 2, 3, 4, 5, 6, 7, 8, 9, 10, 11, 12, 13]

/-- The 14 reads of step (3) of SNS_READ: ACK bytes 1 to 13, NACK byte 14 (41 R505). -/
def burstReads : List Micro :=
  burstIndices.flatMap fun k => pRead (decide (k.val < 13)) (.keep k)

/-- The procedure of SNS_READ (41 R505): write the register address, repeated START, read 14 bytes, STOP. -/
def readProcedure (s : State) : List Micro :=
  pStart
    ++ ackedWrite (.lit (addressByte s.regs.snsAddr 0))
    ++ ackedWrite (.lit s.par.regDataFirst)
    ++ pStart
    ++ ackedWrite (.lit (addressByte s.regs.snsAddr 1))
    ++ burstReads
    ++ pStop

/-- SNS_READ (41 R505, R507). -/
def execSnsRead (s : State) : Host.Outcome State Fault Refusal :=
  acceptSequencer (encode .snsRead) (readProcedure s) .samples s

end Sys2Proof.Machine
end

