-- ==== Sys2Proof/Machine/Dispatch.lean ====
section
/-! DEFINITION. What a command does when a host writes its word to CMD: one arm per command. Log 26. -/

namespace Sys2Proof.Machine

def exec (i : Instr) (s : State) : Host.Outcome State Fault Refusal :=
  match i with
  | .start => Sys2Proof.Machine.execStart s
  | .stop => Sys2Proof.Machine.execStop s
  | .writeByte byte => Sys2Proof.Machine.execWriteByte byte s
  | .waitAck => Sys2Proof.Machine.execWaitAck s
  | .readByte ack => Sys2Proof.Machine.execReadByte ack s
  | .snsWake => Sys2Proof.Machine.execSnsWake s
  | .snsConfig => Sys2Proof.Machine.execSnsConfig s
  | .snsRead => Sys2Proof.Machine.execSnsRead s
  | .dspInit => Sys2Proof.Machine.execDspInit s
  | .dspSetWindow cs ce ps pe => Sys2Proof.Machine.execDspSetWindow cs ce ps pe s
  | .dspWriteFrame len => Sys2Proof.Machine.execDspWriteFrame len s
  | .dspPutchar byte => Sys2Proof.Machine.execDspPutchar byte s
  | .dspSetCursor page col => Sys2Proof.Machine.execDspSetCursor page col s

end Sys2Proof.Machine
end

