-- ==== Sys2Proof/Machine/HostAccess.lean ====
section
/-! DEFINITION. The host's accesses to the register window (20 R201 to R209, 10 R104 to R123), the submission of a command
(30 R312), and the host's turn (30 R311). -/

namespace Sys2Proof.Machine

/-- The registers of the map (10 R104). -/
inductive RegName where
  | ctrl
  | delay
  | status
  | cmd
  | rxData
  | lines
  | snsAddr
  | dspAddr
  | snsCfg
  | chunk
  | sampleAx
  | sampleAy
  | sampleAz
  | sampleT
  | sampleGx
  | sampleGy
  | sampleGz
  | fbWord (j : Nat)
deriving DecidableEq, Repr

/-- The offset of CMD (10 R104). -/
def cmdOffset : Nat := 0x00C

/-- The offset of STATUS (10 R104). -/
def statusOffset : Nat := 0x008

/-- The register an aligned offset names; none where the offset is unmapped (10 R104, R105). -/
def regAt (off : Nat) : Option RegName :=
  if off = 0x000 then some .ctrl
  else if off = 0x004 then some .delay
  else if off = 0x008 then some .status
  else if off = 0x00C then some .cmd
  else if off = 0x010 then some .rxData
  else if off = 0x014 then some .lines
  else if off = 0x018 then some .snsAddr
  else if off = 0x01C then some .dspAddr
  else if off = 0x020 then some .snsCfg
  else if off = 0x024 then some .chunk
  else if off = 0x040 then some .sampleAx
  else if off = 0x044 then some .sampleAy
  else if off = 0x048 then some .sampleAz
  else if off = 0x04C then some .sampleT
  else if off = 0x050 then some .sampleGx
  else if off = 0x054 then some .sampleGy
  else if off = 0x058 then some .sampleGz
  else if 0x400 ≤ off ∧ off < 0x800 then some (.fbWord ((off - 0x400) / 4))
  else none

/-- The read-only registers (10 R104, 20 R201). -/
def readOnly : RegName → Bool
  | .status | .rxData | .lines => true
  | .sampleAx | .sampleAy | .sampleAz | .sampleT | .sampleGx | .sampleGy | .sampleGz => true
  | .ctrl | .delay | .cmd | .snsAddr | .dspAddr | .snsCfg | .chunk | .fbWord _ => false

/-- The value a register reads as (10 R105 to R123): CMD reads 0, reserved fields read 0, LINES is live, the others hold
committed values (10 R126). -/
def regRead (s : State) : RegName → Except Fault Word
  | .ctrl => .ok ((bit1 s.regs.abortOnNack).zeroExtend 32)
  | .delay => .ok (s.regs.delay.zeroExtend 32)
  | .status => .ok (statusWord s.status)
  | .cmd => .ok 0
  | .rxData => .ok (s.rxData.zeroExtend 32)
  | .lines => .ok (linesWord s.lines)
  | .snsAddr => .ok (s.regs.snsAddr.zeroExtend 32)
  | .dspAddr => .ok (s.regs.dspAddr.zeroExtend 32)
  | .snsCfg => .ok s.regs.snsCfg
  | .chunk => .ok (s.regs.chunk.zeroExtend 32)
  | .sampleAx => .ok s.samples.ax
  | .sampleAy => .ok s.samples.ay
  | .sampleAz => .ok s.samples.az
  | .sampleT => .ok s.samples.t
  | .sampleGx => .ok s.samples.gx
  | .sampleGy => .ok s.samples.gy
  | .sampleGz => .ok s.samples.gz
  | .fbWord j => fbWord s.fb j

/-- A write of a read/write register stores its fields; reserved bits are ignored (10 R105, R106, R107, R118 to R121,
R123, 20 R206). CMD and the read-only registers store nothing. -/
def regWrite (r : RegName) (v : Word) (s : State) : State :=
  match r with
  | .ctrl => { s with regs := { s.regs with abortOnNack := v.getLsbD 0 } }
  | .delay => { s with regs := { s.regs with delay := v.extractLsb' 0 16 } }
  | .snsAddr => { s with regs := { s.regs with snsAddr := v.extractLsb' 0 7 } }
  | .dspAddr => { s with regs := { s.regs with dspAddr := v.extractLsb' 0 7 } }
  | .snsCfg => { s with regs := { s.regs with snsCfg := v } }
  | .chunk => { s with regs := { s.regs with chunk := v.extractLsb' 0 11 } }
  | .fbWord j => { s with fb := fbWriteWord s.fb j v }
  | .status | .cmd | .rxData | .lines => s
  | .sampleAx | .sampleAy | .sampleAz | .sampleT | .sampleGx | .sampleGy | .sampleGz => s

/-- The first two checks of every access: its size and alignment, and that its offset is mapped (20 R201, 60 R703). -/
def accessReg (off size : Nat) : Except Fault RegName :=
  if size ≠ 4 ∨ off % 4 ≠ 0 then .error (.busError .sizeOrAlignment off)
  else
    match regAt off with
    | some r => .ok r
    | none => .error (.busError .unmapped off)

/-- `MemRead(off, size)` (20 R201). -/
def hostRead (off size : Nat) (s : State) : Except Fault Word :=
  match accessReg off size with
  | .ok r => regRead s r
  | .error f => .error f

/-- `submit(w)` (30 R312): an illegal word is CmdError(ILLEGAL) (30 R306); a legal one does what its command says. -/
def submit (w : Word) (s : State) : Host.Outcome State Fault Refusal :=
  match decodeWord w with
  | .ok i => exec i s
  | .error _ => .next (cmdError .illegal s)

/-- `MemWrite(off, size, v)` (20 R201), its checks in the order of 60 R703 and R706. -/
def hostWrite (off size : Nat) (v : Word) (s : State) : Host.Outcome State Fault Refusal :=
  match accessReg off size with
  | .error f => .fault f
  | .ok r =>
    if readOnly r then .fault (.busError .readOnly off)
    else if s.status.busy then .fault (.busError .busy off)
    else if r = .cmd then submit v s
    else .next (regWrite r v s)

/-- What a host read returns is kept, the observation of 00 R7. Log 12. -/
def noteRead (off : Nat) (v : Word) (s : State) : State :=
  { s with host := { s.host with reads := (off, v) :: s.host.reads } }

/-- The host's program moves on. -/
def setProgram (ops : List HostOp) (s : State) : State :=
  { s with host := { s.host with program := ops } }

/-- The host's turn: its next operation (30 R311). A `poll` reads STATUS once a turn, and stays the next operation while the
value has BUSY = 1. A host whose program is over does nothing (70 R816). Log 13, log 15. -/
def hostTurn (s : State) : Host.Outcome State Fault Refusal :=
  match s.host.program with
  | [] => .next s
  | .read off size :: rest =>
    match hostRead off size s with
    | .ok v => .next (noteRead off v (setProgram rest s))
    | .error f => .fault f
  | .write off size v :: rest => hostWrite off size v (setProgram rest s)
  | .poll :: rest =>
    let polled := noteRead statusOffset (statusWord s.status) s
    if (statusWord s.status).getLsbD 0 then .next polled else .next (setProgram rest polled)

end Sys2Proof.Machine
end

