-- ==== Sys2Proof/Machine/Turns.lean ====
section
/-! DEFINITION. Which agent moves in a step (00 R5, R6; 20 R213), and how a command is put before the host. -/

namespace Sys2Proof.Machine

/-- The agent that moves next: the head of `turns`; when none is listed, the engine while BUSY = 1 (it is fair, 70 R817), else
the host. Log 3. -/
def nextTurn (s : State) : Turn :=
  match s.turns with
  | t :: _ => t
  | [] => if s.status.busy then .engine else .host

/-- The turn taken is over. -/
def dropTurn (s : State) : State :=
  { s with turns := s.turns.tail }

/-- One step of the machine: the turn of the agent that moves next (00 R5). -/
def takeTurn (s : State) : Host.Outcome State Fault Refusal :=
  match nextTurn s with
  | .host => hostTurn (dropTurn s)
  | .engine => engineTurn (dropTurn s)
  | .reset => .next (resetInput (dropTurn s))

/-- The host's next operation is a CMD write of `w`, and the next turn is the host's. Log 2. -/
def placeCommand (w : Word) (s : State) : State :=
  { s with host := { s.host with program := .write cmdOffset 4 w :: s.host.program }, turns := .host :: s.turns }

end Sys2Proof.Machine
end

