-- ==== Sys2Proof/Machine/Step.lean ====
section
/-! DEFINITION. The step of the machine, and the place a step takes its command from: the host's next access. -/

namespace Sys2Proof.Machine

/-- One step (00 R5): a host access, an engine micro-step with the environment's answer, a commit, or a reset. -/
def step (s : State) : Host.Outcome State Fault Refusal := takeTurn s

/-- `s` with the command word of the low `nbits` bits of `w` as the host's next access, a write to CMD, made in the next
step. The block fetches nothing (10 R103): a command reaches it only so. Log 2, log 23. -/
def State.withFetchWord (s : State) (nbits w : Nat) : State := placeCommand (tableWord nbits w) s

end Sys2Proof.Machine
end

