-- ==== Sys2Proof/Machine/BusView.lean ====
section
/-! DEFINITION. What a listener on the bus reads off a line event trace (40 R405): START conditions, STOP conditions and
bits. -/

namespace Sys2Proof.Machine

/-- What a listener sees (40 R405). -/
inductive BusItem where
  | start
  | stop
  | bit (b : Bit)
deriving DecidableEq, Repr

/-- The bus items of a list of events, from SCL_OUT and SDA_OUT before it. `cur` is the SDA level since the last `SCL1`, the
sampled level once a sample has read it, none once SDA has moved: it is a bit when `SCL0` comes (40 R405). -/
def busItems (c d : Bit) (cur : Option Bit) : List Event → List BusItem
  | [] => []
  | .scl true :: es => busItems true d (some d) es
  | .scl false :: es =>
    match cur with
    | some b => .bit b :: busItems false d none es
    | none => busItems false d none es
  | .sda v :: es =>
    if c && (v != d) then (if v then .stop else .start) :: busItems c v none es else busItems c v cur es
  | .smp b :: es => busItems c d (some b) es

end Sys2Proof.Machine
end

