-- ==== Sys2Proof/WellFormed.lean ====
section
/-! DEFINITION. Well-formedness. A command of `Instr` is well formed by its type: an operand has exactly the values its field
can hold (30 R304). What can be ill formed is a line of the assembler, whose operands are numbers: "an operand that does not
fit its field is an assembly error: the assembler refuses it and never truncates it" (30 R309). -/

namespace Sys2Proof

/-- One line of the assembler (30 R309), with the operands as the programmer wrote them. -/
inductive AsmLine where
  | start
  | stop
  | wrb (byte : Nat)
  | wack
  | rdb (ack : Bool)
  | snsWake
  | snsCfg
  | snsRead
  | dspInit
  | dspWin (cs ce ps pe : Nat)
  | dspFrame (len : Nat)
  | dspPutc (byte : Nat)
  | dspCur (page col : Nat)
deriving DecidableEq, Repr

/-- The checks of the assembler: every operand fits its field (30 R304, R309). -/
def AsmLine.wf : AsmLine → Bool
  | .wrb byte => byte < 2 ^ 8
  | .dspWin cs ce ps pe => cs < 2 ^ 7 && ce < 2 ^ 7 && ps < 2 ^ 3 && pe < 2 ^ 3
  | .dspFrame len => len < 2 ^ 11
  | .dspPutc byte => byte < 2 ^ 8
  | .dspCur page col => page < 2 ^ 3 && col < 2 ^ 7
  | .start | .stop | .wack | .rdb _ | .snsWake | .snsCfg | .snsRead | .dspInit => true

end Sys2Proof
end

