-- ==== Sys2Proof/Machine/HostDriver.lean ====
section
/-! DEFINITION. The host's side of the interface, as far as the spec fixes it: the assembler and the pseudo-instructions (30
R309 to R311), the records and scaled values of a sample (41 R508 to R512), the pixels of a frame (42 R601), and the duties
of a host program (70 R807, R811, R814). None of it is part of the block. Log 28. -/

namespace Sys2Proof.Machine

/-! ### Assembler -/

/-- The command of an assembler line; an operand that does not fit is refused, never truncated (30 R309). -/
def assemble (l : AsmLine) : Option Instr :=
  if l.wf then
    some (match l with
      | .start => .start
      | .stop => .stop
      | .wrb byte => .writeByte (BitVec.ofNat 8 byte)
      | .wack => .waitAck
      | .rdb ack => .readByte (if ack then 1 else 0)
      | .snsWake => .snsWake
      | .snsCfg => .snsConfig
      | .snsRead => .snsRead
      | .dspInit => .dspInit
      | .dspWin cs ce ps pe => .dspSetWindow (BitVec.ofNat 7 cs) (BitVec.ofNat 7 ce) (BitVec.ofNat 3 ps) (BitVec.ofNat 3 pe)
      | .dspFrame len => .dspWriteFrame (BitVec.ofNat 11 len)
      | .dspPutc byte => .dspPutchar (BitVec.ofNat 8 byte)
      | .dspCur page col => .dspSetCursor (BitVec.ofNat 3 page) (BitVec.ofNat 7 col))
  else none

/-- `cmd X` (30 R310). -/
def cmdOps (i : Instr) : List HostOp := [.write cmdOffset 4 (encode i), .poll]

/-- `dsp.puts` on the codes of its characters (30 R310). -/
def putsOps (codes : List Byte) : List HostOp := codes.flatMap fun c => cmdOps (.dspPutchar c)

/-- `dsp.frame` without an operand (30 R310). -/
def frameOps : List HostOp := cmdOps (.dspWriteFrame 1024)

/-- The commands of `i2c.wreg a7, r, v` (30 R310). -/
def wregCommands (a7 : BitVec 7) (r v : Byte) : List Instr :=
  [.start, .writeByte (addressByte a7 0), .waitAck, .writeByte r, .waitAck, .writeByte v, .waitAck, .stop]

/-- The commands of `i2c.rreg a7, r` (30 R310). -/
def rregCommands (a7 : BitVec 7) (r : Byte) : List Instr :=
  [.start, .writeByte (addressByte a7 0), .waitAck, .writeByte r, .waitAck, .start, .writeByte (addressByte a7 1), .waitAck,
    .readByte 0, .stop]

/-- `i2c.wreg a7, r, v` (30 R310). -/
def wregOps (a7 : BitVec 7) (r v : Byte) : List HostOp := (wregCommands a7 r v).flatMap cmdOps

/-- `i2c.rreg a7, r` (30 R310). -/
def rregOps (a7 : BitVec 7) (r : Byte) : List HostOp := (rregCommands a7 r).flatMap cmdOps

/-! ### Records and scaled values -/

/-- A record field: the low 16 bits of a sample register, low byte first (41 R509, R510). -/
def recordField (w : Word) : List Byte := [wordByte w 0, wordByte w 1]

/-- Host record layout (a), 6 bytes (41 R509). -/
def recordA (s : Samples) : List Byte := [s.ax, s.ay, s.az].flatMap recordField

/-- Host record layout (b), 14 bytes, native order little-endian (41 R510). -/
def recordB (s : Samples) : List Byte := [s.ax, s.ay, s.az, s.t, s.gx, s.gy, s.gz].flatMap recordField

/-- A driver read of `want` bytes of a record: fewer than its size is an invalid argument that returns nothing (41 R510, 60
R719). What a read of more bytes returns is the model's choice, DESIGN CHOICE: the record, whole and alone. Log 29. -/
def readRecord (want : Nat) (record : List Byte) : Option (List Byte) :=
  if want < record.length then none else some record

/-- Big-endian packing of 16-bit values, high byte first (41 R508). -/
def packBigEndian (vs : List (BitVec 16)) : List Byte :=
  vs.flatMap fun v => [v.extractLsb' 8 8, v.extractLsb' 0 8]

/-- Acceleration in m/s² (41 R511). -/
def accelScaled (raw : BitVec 16) : Rat := (raw.toInt : Rat) * (980665 / 100000) / 16384

/-- Angular rate in °/s (41 R511). -/
def gyroScaled (raw : BitVec 16) : Rat := (raw.toInt : Rat) / 131

/-- Temperature in °C (41 R511). -/
def tempScaled (raw : BitVec 16) : Rat := (raw.toInt : Rat) / 340 + 3653 / 100

/-- Sample register `i`, in the order of the fields (10 R122, 41 R506). -/
def sampleReg (s : Samples) (i : Fin 7) : Word :=
  match i with
  | 0 => s.ax
  | 1 => s.ay
  | 2 => s.az
  | 3 => s.t
  | 4 => s.gx
  | 5 => s.gy
  | 6 => s.gz

/-- The raw value of field `i` of a sample, `v16_i = SAMPLE_*[15:0]` (41 R509, R511). -/
def rawField (s : Samples) (i : Fin 7) : BitVec 16 := (sampleReg s i).extractLsb' 0 16

/-- The scaled value of field `i` of a sample: acceleration for 0 to 2, temperature for 3, angular rate for 4 to 6 (41
R511). -/
def scaledField (s : Samples) (i : Fin 7) : Rat :=
  if i.val ≤ 2 then accelScaled (rawField s i)
  else if i.val = 3 then tempScaled (rawField s i)
  else gyroScaled (rawField s i)

/-- The text line of the attribute of field `i` of a sample: its raw value, a tabulator, the decimal text of its scaled value
(41 R511). Log 21. -/
def attributeLine (s : Samples) (i : Fin 7) : String :=
  toString (rawField s i).toInt ++ "\t" ++ Config.decimalText (scaledField s i)

/-- What a driver takes from an SNS_READ: no sample this cycle when it failed (41 R512). -/
def sampleThisCycle (s : State) : Option Samples :=
  if s.status.err = .nack ∨ s.status.sampleValid = false then none else some s.samples

/-! ### Frames -/

/-- Pixel (x, y) of the bitmap, where its byte was written (42 R601). -/
def pixel (m : Memory) (x y : Nat) : Option Bit :=
  (m.read (y / 8 * 128 + x)).map (bitOf · (y % 8))

/-- The writes of framebuffer words `j`, `j + 1`, ... from a list of bytes (10 R123). -/
def fbWrites (j : Nat) : List Byte → List HostOp
  | b0 :: b1 :: b2 :: b3 :: rest => .write (0x400 + 4 * j) 4 (wordOfBytes b0 b1 b2 b3) :: fbWrites (j + 1) rest
  | _ => []

/-- A driver's display write: a length other than 1024 is an invalid argument that never reaches the block (60 R719);
otherwise all framebuffer words, then the frame. -/
def displayWrite (buffer : List Byte) : Option (List HostOp) :=
  if buffer.length = frameBytes then some (fbWrites 0 buffer ++ frameOps) else none

/-- The recommended bring-up (70 R807): the configuration registers, wake, configure, initialise the display, then a frame. -/
def bringUp (ctrl delay snsAddr dspAddr snsCfg chunk : Word) (buffer : List Byte) : List HostOp :=
  [.write 0x004 4 delay, .write 0x000 4 ctrl, .write 0x018 4 snsAddr, .write 0x01C 4 dspAddr, .write 0x020 4 snsCfg,
    .write 0x024 4 chunk]
    ++ cmdOps .snsWake ++ cmdOps .snsConfig ++ cmdOps .dspInit ++ fbWrites 0 buffer ++ frameOps

/-! ### Duties of a host program -/

/-- A program that polls after every CMD write before it writes again (70 R811); `pending` says a command may be running. -/
def polledProgram (pending : Bool) : List HostOp → Bool
  | [] => true
  | .read _ _ :: rest => polledProgram pending rest
  | .poll :: rest => polledProgram false rest
  | .write off _ _ :: rest => !pending && polledProgram (off == cmdOffset) rest

/-- The static duties of a raw transaction (70 R814) after its START: every written byte is followed by WAIT_ACK, the last
byte read is NACKed, and it ends with STOP. `lastRead` is the acknowledge of the last read byte since the last START. -/
def rawBodyOk (lastRead : Option (BitVec 1)) : List Instr → Bool
  | .stop :: rest => rest.isEmpty && lastRead != some 1
  | .start :: .writeByte _ :: .waitAck :: rest => lastRead != some 1 && rawBodyOk none rest
  | .writeByte _ :: .waitAck :: rest => rawBodyOk lastRead rest
  | .readByte ack :: rest => lastRead != some 0 && rawBodyOk (some ack) rest
  | _ => false

/-- The static duties of a raw transaction: START, an address byte and its WAIT_ACK, then the body (70 R814). -/
def rawTransactionOk : List Instr → Bool
  | .start :: .writeByte _ :: .waitAck :: rest => rawBodyOk none rest
  | _ => false

/-- A raw transaction as it went, each command with the STATUS.ACK read after it: the host goes on past no NACK of a WAIT_ACK but
to issue its STOP (70 R814, 40 R419). -/
def stopsAtNack : List (Instr × Bit) → Bool
  | [] => true
  | (.waitAck, false) :: rest => rest.map (·.1) == [.stop]
  | _ :: rest => stopsAtNack rest

/-- A run has ended: the host's program is over and BUSY = 0 (70 R816). -/
def runEnded (s : State) : Bool := s.host.program.isEmpty && !s.status.busy

end Sys2Proof.Machine
end

