-- ==== Sys2Proof/Safety.lean ====
section
/-! DEFINITION. The terms claims are stated in: runs of the engine, the environment's coming answers, what a command of write
transactions and an SNS_READ leave behind as the spec's pseudocode says it, the invariant of the machine, and conforming
parameters. -/

namespace Sys2Proof.Machine

/-! ### Runs of the engine -/

/-- `n` turns of the engine, stopping at a fault. -/
def engineTurns : Nat → State → Host.Outcome State Fault Refusal
  | 0, s => .next s
  | n + 1, s =>
    match engineTurn s with
    | .next s' => engineTurns n s'
    | .fault f => .fault f
    | .refused r => .refused r

/-- The environment's answer to the `k`-th sample from now (40 R404, R420). -/
def answer (s : State) (k : Nat) : Bit :=
  match s.par.backend with
  | .fake => s.par.fakeScript.getD (s.env.calls + k) true
  | .real => Config.envSda (s.env.draws + k)

/-- The environment after `k` more samples. -/
def envAfter (s : State) (k : Nat) : Env := ⟨s.env.calls + k, s.env.draws + k⟩

/-- `s` after the events `es` have been appended to its trace. -/
def withEvents (es : List Event) (s : State) : State := { s with traceRev := es.reverse ++ s.traceRev }

/-! ### Events of the primitives (40 R406 to R410) -/

/-- The events of `p_start`. -/
def startEvents : List Event := [.sda true, .scl true, .sda false, .scl false]

/-- The events of `p_stop`. -/
def stopEvents : List Event := [.sda false, .scl true, .sda true]

/-- The events of `p_write(b)`. -/
def writeEvents (b : Byte) : List Event :=
  bitsMsbFirst.flatMap fun i => [.sda (bitOf b i), .scl true, .scl false]

/-- The events of `p_wait_ack` when the sample reads `a`. -/
def ackEvents (a : Bit) : List Event := [.sda true, .scl true, .smp a, .scl false]

/-- The events of `p_read(k)` when the eight samples read `ans from`, `ans (from + 1)`, ... -/
def readEvents (ans : Nat → Bit) (first : Nat) (k : Bit) : List Event :=
  [.sda true] ++ (List.range 8).flatMap (fun j => [.scl true, .smp (ans (first + j)), .scl false])
    ++ [.sda (!k), .scl true, .scl false]

/-- The byte of eight samples, most significant bit first (40 R410). -/
def byteOfAnswers (ans : Nat → Bit) (first : Nat) : Byte :=
  (List.range 8).foldl (fun b j => (b <<< 1) ||| (bit1 (ans (first + j))).zeroExtend 8) 0

/-! ### Commands of write transactions (40 R422 to R426) -/

/-- The bytes of one transaction that are sent, each with the answer its ack-wait samples, from the `k`-th answer on; true
when a NACK under `abort` ended it. -/
def carryTxn (abort : Bit) (ans : Nat → Bit) (k : Nat) : List Byte → List (Byte × Bit) × Bool
  | [] => ([], false)
  | b :: bs =>
    if ans k && abort then ([(b, ans k)], true)
    else
      let r := carryTxn abort ans (k + 1) bs
      ((b, ans k) :: r.1, r.2)

/-- The same for a list of transactions: none follows one that was aborted (40 R424). -/
def carryAll (abort : Bit) (ans : Nat → Bit) (k : Nat) : List (List Byte) → List (List (Byte × Bit)) × Bool
  | [] => ([], false)
  | t :: ts =>
    let r := carryTxn abort ans k t
    if r.2 then ([r.1], true)
    else
      let q := carryAll abort ans (k + r.1.length) ts
      (r.1 :: q.1, q.2)

/-- The events of acknowledged bytes. -/
def ackedEvents (sent : List (Byte × Bit)) : List Event :=
  sent.flatMap fun p => writeEvents p.1 ++ ackEvents p.2

/-- The events of one write transaction, from its START to its STOP, whether it ran to its end or was aborted (40 R424,
R426). -/
def txnEvents (sent : List (Byte × Bit)) : List Event := startEvents ++ ackedEvents sent ++ stopEvents

/-- NACKCNT of a command whose ack-waits sampled `acks` (10 R113). -/
def nackCountOf (acks : List Bit) : Byte := sat8 (acks.count true)

/-- ACK after a command whose ack-waits sampled `acks` (10 R110). -/
def ackAfter (acks : List Bit) (old : Bit) : Bit :=
  match acks.getLast? with
  | some a => !a
  | none => old

/-- What a sequencer command of the write transactions `txns` does from `s`: the transactions sent, and whether it aborted. -/
def carried (s : State) (txns : List (List Byte)) : List (List (Byte × Bit)) × Bool :=
  carryAll s.regs.abortOnNack (answer s) 0 txns

/-- The state a sequencer command of the write transactions `txns` leaves (40 R424, R425): its events, NACKs counted,
the last acknowledge, ERR, IDLE with released lines; all else as it was. -/
def afterTransactions (s : State) (txns : List (List Byte)) : State :=
  let r := carried s txns
  let acks := r.1.flatten.map (·.2)
  withEvents (r.1.flatMap txnEvents)
    { s with
      status :=
        { s.status with
          busy := false
          ack := ackAfter acks s.status.ack
          phase := .idle
          err := if r.2 then .nack else .none
          nackCnt := nackCountOf acks }
      lines := ⟨true, true, acks.getLastD s.lines.sampled⟩
      eng := Engine.idle
      env := envAfter s acks.length }

/-- `s` with a command accepted: BUSY = 1, the engine loaded, nothing else changed (30 R312). -/
def acceptedFrom (s t : State) : Prop :=
  t = { s with status := { s.status with busy := true }, eng := t.eng }

/-- The command `i` is accepted from `s`, and one engine turn for each event of its transactions and one for the commit bring
the state that `afterTransactions` says. -/
def RunsTransactions (i : Instr) (s : State) (txns : List (List Byte)) : Prop :=
  ∃ t, exec i s = .next t ∧ acceptedFrom s t ∧
    engineTurns (((carried s txns).1.flatMap txnEvents).length + 1) t = .next (afterTransactions s txns)

/-- The bytes of a sensor register write (41 R502). -/
def regBytes (s : State) (r v : Byte) : List Byte := [addressByte s.regs.snsAddr 0, r, v]

/-- The bytes of a display command transaction (42 R603). -/
def cmdBytes (s : State) (b : Byte) : List Byte := [addressByte s.regs.dspAddr 0, controlCommand, b]

/-- The bytes of a display data transaction (42 R604). -/
def dataBytes (s : State) (d : List Byte) : List Byte := addressByte s.regs.dspAddr 0 :: controlData :: d

/-- Every framebuffer byte has been written since reset (70 R804). -/
def frameWritten (m : Memory) : Prop := ∀ a, a < frameBytes → (m.read a).isSome = true

/-- The transactions of a frame in chunks of CHUNK.SIZE (42 R608). -/
def frameTransactions (s : State) : List (List Byte) :=
  (frameChunks s.regs.chunk.toNat).map fun c => dataBytes s (c.map fun j => (s.fb.read j).getD 0)

/-! ### SNS_READ (41 R505 to R507) -/

/-- The state an SNS_READ leaves that a NACK aborted, after the events `es` and the ack-waits `acks` (40 R424, 41 R507). -/
def afterAbortedRead (s : State) (es : List Event) (acks : List Bit) : State :=
  withEvents es
    { s with
      status :=
        { busy := false, ack := false, phase := .idle, err := .nack, nackCnt := nackCountOf acks, sampleValid := false }
      lines := ⟨true, true, true⟩
      eng := Engine.idle
      env := envAfter s acks.length }

/-- The events of an SNS_READ before its reads: the answers of its three ack-waits are `a0`, `a1`, `a2`. -/
def readHeadEvents (s : State) (a0 a1 a2 : Bit) : List Event :=
  startEvents ++ ackedEvents [(addressByte s.regs.snsAddr 0, a0), (s.par.regDataFirst, a1)] ++ startEvents
    ++ ackedEvents [(addressByte s.regs.snsAddr 1, a2)]

/-- The events of the 14 reads: ACK for bytes 1 to 13, NACK for byte 14. -/
def burstEvents (ans : Nat → Bit) (first : Nat) : List Event :=
  (List.range 14).flatMap fun k => readEvents ans (first + 8 * k) (decide (k < 13))

/-- The sample registers of a burst whose byte `k` is `byte k` (41 R506, R507). -/
def samplesOf (byte : Nat → Byte) : Samples where
  ax := (byte 0 ++ byte 1).signExtend 32
  ay := (byte 2 ++ byte 3).signExtend 32
  az := (byte 4 ++ byte 5).signExtend 32
  t := (byte 6 ++ byte 7).signExtend 32
  gx := (byte 8 ++ byte 9).signExtend 32
  gy := (byte 10 ++ byte 11).signExtend 32
  gz := (byte 12 ++ byte 13).signExtend 32

/-- The state an SNS_READ leaves that reached its STOP (41 R505, R507). -/
def afterRead (s : State) : State :=
  let acks := [answer s 0, answer s 1, answer s 2]
  withEvents (readHeadEvents s (answer s 0) (answer s 1) (answer s 2) ++ burstEvents (answer s) 3 ++ stopEvents)
    { s with
      status :=
        { busy := false
          ack := !answer s 2
          phase := .idle
          err := .none
          nackCnt := nackCountOf acks
          sampleValid := true }
      samples := samplesOf fun k => byteOfAnswers (answer s) (3 + 8 * k)
      lines := ⟨true, true, answer s 114⟩
      eng := Engine.idle
      env := envAfter s 115 }

/-! ### Invariants -/

/-- 10 R127: the lines of a block that runs no command. -/
def LinesAtRest (s : State) : Prop :=
  match s.status.phase with
  | .idle => s.lines.scl = true ∧ s.lines.sda = true
  | .addressing | .transfer => s.lines.scl = false

/-- The rest of a procedure, from SCL_OUT and SDA_OUT (none: not known): data bits are written while SCL is low, and every
sample is taken while SCL and SDA are released (40 R402, R417). -/
def lineSafe : List Micro → Bit → Option Bit → Bool
  | [], _, _ => true
  | .scl v :: r, _, d => lineSafe r v d
  | .sda v :: r, c, _ => lineSafe r c (some v)
  | .sdaBit _ _ :: r, c, _ => !c && lineSafe r c none
  | .smp :: r, c, d => c && d == some true && lineSafe r c d
  | .smpShift _ :: r, c, d => c && d == some true && lineSafe r c d
  | .ackRaw :: r, _, d => lineSafe r false d
  | .ackSeq :: r, _, d => lineSafe r false d
  | .keep _ :: r, _, d => lineSafe r false d

/-- SCL_OUT after the rest of a procedure that is not aborted. -/
def lastScl : List Micro → Bit → Bit
  | [], c => c
  | .scl v :: r, _ => lastScl r v
  | .ackRaw :: r, _ => lastScl r false
  | .ackSeq :: r, _ => lastScl r false
  | .keep _ :: r, _ => lastScl r false
  | .sda _ :: r, c => lastScl r c
  | .sdaBit _ _ :: r, c => lastScl r c
  | .smp :: r, c => lastScl r c
  | .smpShift _ :: r, c => lastScl r c

/-- SDA_OUT after the rest of a procedure that is not aborted, where it is known. -/
def lastSda : List Micro → Option Bit → Option Bit
  | [], d => d
  | .sda v :: r, _ => lastSda r (some v)
  | .sdaBit _ _ :: r, _ => lastSda r none
  | .scl _ :: r, d => lastSda r d
  | .smp :: r, d => lastSda r d
  | .smpShift _ :: r, d => lastSda r d
  | .ackRaw :: r, d => lastSda r d
  | .ackSeq :: r, d => lastSda r d
  | .keep _ :: r, d => lastSda r d

/-- The running command is safe on the lines, and its end leaves them as 10 R127 asks for the phase it commits. -/
def EngineSound (s : State) : Prop :=
  lineSafe s.eng.pos.todo s.lines.scl (some s.lines.sda) = true ∧
    match s.eng.newphase with
    | .idle => lastScl s.eng.pos.todo s.lines.scl = true ∧ lastSda s.eng.pos.todo (some s.lines.sda) = some true
    | .addressing | .transfer => lastScl s.eng.pos.todo s.lines.scl = false

/-- The invariant of the machine: FB is in canonical form; the engine holds a command word exactly while BUSY = 1; the lines
are at rest while BUSY = 0 (10 R127) and a running command will leave them so. -/
def MachineInv (s : State) : Prop :=
  s.fb.wf ∧ s.eng.cmd.isSome = s.status.busy ∧ (if s.status.busy then EngineSound s else LinesAtRest s)

/-- The device without the agents around it: what the host's turns and reads leave out (00 R7, 20 R206). -/
def device (s : State) : State := { s with host := ⟨[], []⟩, turns := [] }

/-- A host operation that writes nothing. -/
def readsOnly : HostOp → Bool
  | .read _ _ | .poll => true
  | .write _ _ _ => false

/-! ### Step and settle counts (40 R418, 70 R812, R813) -/

/-- A micro-step that is an SDA sample; every other one is a line write with its settle (40 R401, R402). -/
def isSample : Micro → Bool
  | .smp | .smpShift _ => true
  | .scl _ | .sda _ | .sdaBit _ _ | .ackRaw | .ackSeq | .keep _ => false

/-- The number of samples among micro-steps. -/
def sampleCount (ms : List Micro) : Nat := ms.countP isSample

/-- The number of line writes, hence of settles, among micro-steps. -/
def settleCount (ms : List Micro) : Nat := ms.countP fun m => !isSample m

/-- The engine steps of each command (70 R813). -/
def stepsOf (i : Instr) (s : State) : Nat :=
  match i with
  | .start => 4
  | .stop => 3
  | .writeByte _ => 24
  | .waitAck => 4
  | .readByte _ => 28
  | .snsWake => 91
  | .snsConfig => 364
  | .snsRead => 487
  | .dspInit => 91 * s.par.initSeq.length
  | .dspSetWindow _ _ _ _ => 546
  | .dspWriteFrame _ => 63 * chunkCount s.regs.chunk.toNat + 28672
  | .dspPutchar _ => 63 + 28 * (glyphColumns s.par.gw + 1)
  | .dspSetCursor _ _ => 273

/-- The settles of each command: of the primitives a raw command performs (40 R418), and of each sequencer command (70
R812). -/
def settlesOf (i : Instr) (s : State) : Nat :=
  match i with
  | .start => 4
  | .stop => 3
  | .writeByte _ => 24
  | .waitAck => 3
  | .readByte _ => 20
  | .snsWake => 88
  | .snsConfig => 352
  | .snsRead => 372
  | .dspInit => 88 * s.par.initSeq.length
  | .dspSetWindow _ _ _ _ => 528
  | .dspWriteFrame _ => 61 * chunkCount s.regs.chunk.toNat + 27648
  | .dspPutchar _ => 61 + 27 * (glyphColumns s.par.gw + 1)
  | .dspSetCursor _ _ => 264

/-! ### Conforming parameters (93 section 1) -/

/-- The last display-on command comes strictly after the first charge-pump command, and both are there (42 R605, 70 R809). -/
def initSeqOk (l : List Byte) : Prop :=
  1 ≤ l.length ∧ l.length ≤ 64 ∧ 0x8D ∈ l ∧ 0xAF ∈ l ∧
    l.idxOf (0x8D : Byte) < l.length - 1 - l.reverse.idxOf (0xAF : Byte)

/-- FONT is defined at every printable ASCII code and at DEGREE_CODE, with GW columns a glyph (42 R611). -/
def fontOk (p : Params) : Prop :=
  (∀ c : Byte, 0x20 ≤ c ∧ c ≤ 0x7E → (fontAt p c).isSome = true) ∧ (fontAt p p.degreeCode).isSome = true ∧
    ∀ r ∈ p.font, r.2.length = glyphColumns p.gw

/-- A conforming device (00 R8, 93 section 1). -/
def Conforming (p : Params) : Prop :=
  initSeqOk p.initSeq ∧ fontOk p ∧ 1 ≤ p.chunkReset.toNat ∧ p.chunkReset.toNat ≤ 1024

end Sys2Proof.Machine
end

