-- ==== Sys2Proof/Certificates/Slice0/Obligations.lean ====
section
/-! DEFINITION. The statements for the provers. A command's own effect is its acceptance at the CMD write (30 R312) and the
engine's run from there to its commit, so a command's result statement says both: `exec` answers a next state, and the engine
turns that follow bring the state the spec's rule gives. -/

open Sys2Proof Sys2Proof.Machine

/-! ### Encoding -/

/-- 30 R303 to R305: the decoder reads every command back from its encoding, whatever its operands. -/
def Obligations.DecodeOfEncode : Prop :=
  ∀ i : Instr, decodeWord (encode i) = .ok i

/-- 30 R305, R306: a word that decodes is the encoding of what it decodes to, so every command has one word. -/
def Obligations.EncodeOfDecode : Prop :=
  ∀ (w : Word) (i : Instr), decodeWord w = .ok i → encode i = w

/-- 30 R305: "No word selects two rows." -/
def Obligations.NoWordSelectsTwoRows : Prop :=
  opcodeMap.Pairwise fun a b => ∀ w : Word, ¬(a.selects w = true ∧ b.selects w = true)

/-- 95 V-E1 (from 30 R303 to R305): the words written out there decode to their commands. -/
def Obligations.WordsOfTheVectorsDecode : Prop :=
  decodeWord 0x01000000 = .ok .start ∧ decodeWord 0x02000000 = .ok .stop ∧
  decodeWord 0x030000A5 = .ok (.writeByte 0xA5) ∧ decodeWord 0x04000000 = .ok .waitAck ∧
  decodeWord 0x05000001 = .ok (.readByte 1) ∧ decodeWord 0x12000000 = .ok .snsRead ∧
  decodeWord 0x21326405 = .ok (.dspSetWindow 5 100 2 3) ∧ decodeWord 0x22000400 = .ok (.dspWriteFrame 1024) ∧
  decodeWord 0x24000205 = .ok (.dspSetCursor 2 5)

/-- 30 R306, whole: a word that selects no row is illegal, of one of the two kinds; writing it leaves ERR = 2, NACKCNT = 0 and
every other piece of state as it was. A host write to CMD is the submission of its word (10 R115, 20 R201). -/
def Obligations.IllegalWordIsRejected : Prop :=
  errCode .illegal = 2 ∧
  (∀ (w : Word) (s : State), s.status.busy = false → hostWrite 0x00C 4 w s = submit w s) ∧
  ∀ (w : Word) (s : State), (∀ r ∈ opcodeMap, w &&& r.mask ≠ r.pattern) →
    submit w s = .next { s with status := { s.status with err := .illegal, nackCnt := 0 } } ∧
    ((decodeWord w = .error .unknownOp ∧ ∀ r ∈ opcodeMap, r.op ≠ fieldOp w) ∨
      (decodeWord w = .error .mustBeZeroBit ∧ ∃ r ∈ opcodeMap, r.op = fieldOp w))

/-! ### The step -/

/-- 20 R201, 30 R312: when the host's next access is a CMD write of a word that decodes to `i`, and BUSY = 0, the step is `exec i`
at the state in which that access and that turn are used up. `withFetchWord` places exactly such an access, so its step is
`exec i` at the state itself.
How a command comes before the host is the model's choice (log 2). -/
def Obligations.StepRunsTheDecodedCommand : Prop :=
  (∀ (s : State) (w : Word) (i : Instr) (rest : List HostOp),
    nextTurn s = .host → s.host.program = .write cmdOffset 4 w :: rest → s.status.busy = false → decodeWord w = .ok i →
    step s = exec i (setProgram rest (dropTurn s))) ∧
  ∀ (s : State) (nbits w : Nat) (i : Instr), s.status.busy = false → decodeTableWord nbits w = some i →
    step (s.withFetchWord nbits w) = exec i s

/-- 00 R5, 20 R213, 70 R817: the agent listed next moves; when none is listed the engine moves while BUSY = 1, else the host.
The order itself is the model's choice (log 3). -/
def Obligations.StepIsTheTurnOfTheNextAgent : Prop :=
  ∀ s : State,
    (∀ ts, s.turns = .engine :: ts → step s = engineTurn { s with turns := ts }) ∧
    (∀ ts, s.turns = .host :: ts → step s = hostTurn { s with turns := ts }) ∧
    (∀ ts, s.turns = .reset :: ts → step s = .next (resetInput { s with turns := ts })) ∧
    (s.turns = [] → s.status.busy = true → step s = engineTurn s) ∧
    (s.turns = [] → s.status.busy = false → step s = hostTurn s)

/-- 30 R312, from its checks to its acceptance: a host write to CMD is `submit`; its checks are in the order written; the first check that fails
decides the error, and a word that passes them all is accepted with BUSY = 1, ENG.cmd = w, no NACK counted, no ack-wait
result, and the engine at the start of a procedure; nothing else changes. -/
def Obligations.AcceptanceFollowsTheChecks : Prop :=
  ∀ (w : Word) (s : State),
    (s.status.busy = false → hostWrite 0x00C 4 w s = submit w s) ∧
    (decodeWord w = .error .unknownOp ∨ decodeWord w = .error .mustBeZeroBit →
      submit w s = .next (cmdError .illegal s)) ∧
    ∀ r ∈ opcodeMap, w &&& r.mask = r.pattern →
      if r.cls = .raw ∧ r.op ≠ 0x01 ∧ s.status.phase = .idle then submit w s = .next (cmdError .seq s)
      else if r.cls = .sequencer ∧ s.status.phase ≠ .idle then submit w s = .next (cmdError .seq s)
      else if r.op = 0x22 ∧ (fieldLen w ≠ 1024 ∨ s.regs.chunk = 0 ∨ 1024 < s.regs.chunk.toNat) then
        submit w s = .next (cmdError .inval s)
      else ∃ t, submit w s = .next t ∧ acceptedFrom s t ∧ t.eng.cmd = some w ∧ t.eng.nacks = 0 ∧ t.eng.lastack = none ∧
        t.eng.pos.aborted = false

/-- 40 R411, R422, 30 R312: a raw command other than START in IDLE, and a sequencer command outside IDLE, is CmdError(SEQ): ERR
and NACKCNT are written and nothing else. -/
def Obligations.CommandsOutOfSequenceAreRejected : Prop :=
  (∀ s : State, s.status.phase = .idle →
    ∀ i : Instr, (i = .stop ∨ i = .waitAck ∨ (∃ b, i = .writeByte b) ∨ ∃ k, i = .readByte k) →
      exec i s = .next { s with status := { s.status with err := .seq, nackCnt := 0 } }) ∧
  ∀ s : State, s.status.phase ≠ .idle →
    ∀ i : Instr, i ≠ .start → i ≠ .stop → i ≠ .waitAck → (∀ b, i ≠ .writeByte b) → (∀ k, i ≠ .readByte k) →
      exec i s = .next { s with status := { s.status with err := .seq, nackCnt := 0 } }

/-! ### Host accesses -/

/-- 60 R703, R706: which accesses get a BusError, and of the causes that apply the first one decides: size or alignment, unmapped
offset, write to a read-only register, any write while BUSY = 1. Without one of them a write is performed; a read of a mapped
offset gets none. -/
def Obligations.BusErrorsInOrder : Prop :=
  ∀ (off size : Nat) (v : Word) (s : State),
    (size ≠ 4 ∨ off % 4 ≠ 0 →
      hostRead off size s = .error (.busError .sizeOrAlignment off) ∧
      hostWrite off size v s = .fault (.busError .sizeOrAlignment off)) ∧
    (size = 4 → off % 4 = 0 →
      ((0x028 ≤ off ∧ off ≤ 0x03C) ∨ (0x05C ≤ off ∧ off ≤ 0x3FC) ∨ 0x800 ≤ off →
        hostRead off size s = .error (.busError .unmapped off) ∧ hostWrite off size v s = .fault (.busError .unmapped off)) ∧
      (off ≤ 0x024 ∨ (0x040 ≤ off ∧ off ≤ 0x058) ∨ (0x400 ≤ off ∧ off < 0x800) →
        ∀ c o, hostRead off size s ≠ .error (.busError c o)) ∧
      (off = 0x008 ∨ off = 0x010 ∨ off = 0x014 ∨ (0x040 ≤ off ∧ off ≤ 0x058) →
        hostWrite off size v s = .fault (.busError .readOnly off)) ∧
      (off ≤ 0x004 ∨ off = 0x00C ∨ (0x018 ≤ off ∧ off ≤ 0x024) ∨ (0x400 ≤ off ∧ off < 0x800) →
        (s.status.busy = true → hostWrite off size v s = .fault (.busError .busy off)) ∧
        (s.status.busy = false → ∃ t, hostWrite off size v s = .next t)))

/-- 20 R209, whole: while BUSY = 1 every host write raises BusError; a host read of every mapped register is answered, and one of
an FB word gives what FB holds; and from a step of host or engine to the next the configuration and FB stay as they are. -/
def Obligations.WritesAreRefusedWhileBusy : Prop :=
  ∀ s : State, s.status.busy = true →
    (∀ off size v, ∃ c, hostWrite off size v s = .fault (.busError c off)) ∧
    (∀ off, off % 4 = 0 → off ≤ 0x024 ∨ (0x040 ≤ off ∧ off ≤ 0x058) → ∃ v, hostRead off 4 s = .ok v) ∧
    (∀ j, j < 256 → hostRead (0x400 + 4 * j) 4 s = fbWord s.fb j) ∧
    (∀ u, nextTurn s ≠ .reset → step s = .next u → u.regs = s.regs ∧ u.fb = s.fb)

/-- 20 R206, whole: a host read or poll changes nothing but the host agent's own record of it; a read of CMD gives 0; a write of
a register other than CMD starts no bus activity, it only stores. -/
def Obligations.HostReadsHaveNoSideEffects : Prop :=
  (∀ (s u : State) (op : HostOp) (rest : List HostOp), s.host.program = op :: rest → readsOnly op = true →
    hostTurn s = .next u → u = { s with host := u.host }) ∧
  (∀ s : State, hostRead 0x00C 4 s = .ok 0) ∧
  ∀ (s u : State) (off size : Nat) (v : Word), off ≠ cmdOffset → hostWrite off size v s = .next u →
    u = { s with regs := u.regs, fb := u.fb }

/-- 10 R108, whole: the fields of STATUS as a host reads them, in every state, with the codes of PHASE and ERR (10 R111, R112);
bits 31:17 read 0; it reads 0 after reset; a host write to it raises BusError. -/
def Obligations.StatusRegisterLayout : Prop :=
  (phaseCode .idle = 0 ∧ phaseCode .addressing = 1 ∧ phaseCode .transfer = 2) ∧
  (errCode .none = 0 ∧ errCode .nack = 1 ∧ errCode .illegal = 2 ∧ errCode .seq = 3 ∧ errCode .inval = 4) ∧
  (∀ s : State, ∃ v, hostRead 0x008 4 s = .ok v ∧
    v.getLsbD 0 = s.status.busy ∧ v.getLsbD 1 = s.status.ack ∧ v.extractLsb' 2 2 = phaseCode s.status.phase ∧
    v.extractLsb' 4 4 = errCode s.status.err ∧ v.extractLsb' 8 8 = s.status.nackCnt ∧
    v.getLsbD 16 = s.status.sampleValid ∧ v.extractLsb' 17 15 = 0) ∧
  (∀ p : Params, hostRead 0x008 4 (State.resetWith p) = .ok 0) ∧
  ∀ (s : State) (size : Nat) (v : Word), ∃ c, hostWrite 0x008 size v s = .fault (.busError c 0x008)

/-- 10 R117, whole: LINES as a host reads it, in every state, so also while BUSY = 1: the line state as it is; it reads 7 after
reset. -/
def Obligations.LinesRegisterIsLive : Prop :=
  (∀ s : State, ∃ v, hostRead 0x014 4 s = .ok v ∧
    v.getLsbD 0 = s.lines.scl ∧ v.getLsbD 1 = s.lines.sda ∧ v.getLsbD 2 = s.lines.sampled ∧ v.extractLsb' 3 29 = 0) ∧
  (∀ p : Params, hostRead 0x014 4 (State.resetWith p) = .ok 7) ∧
  ∀ (s : State) (b : Bit), s.eng.pos.todo = .scl b :: s.eng.pos.todo.tail → s.status.busy = true →
    ∃ u, engineTurn s = .next u ∧ hostRead 0x014 4 u = .ok (linesWord { s.lines with scl := b })

/-- 10 R105 to R107, R118 to R121: what a host write of each read/write register leaves, read back: the field's bits of the
value written, reserved bits 0; and no other register, no FB byte and nothing else changes. -/
def Obligations.RegisterWriteThenRead : Prop :=
  ∀ (s : State) (v : Word), s.status.busy = false →
    ∀ om ∈ ([(0x000, 0x00000001), (0x004, 0x0000FFFF), (0x018, 0x0000007F), (0x01C, 0x0000007F), (0x020, 0xFFFFFFFF),
        (0x024, 0x000007FF)] : List (Nat × Word)),
      ∃ t, hostWrite om.1 4 v s = .next t ∧ hostRead om.1 4 t = .ok (v &&& om.2) ∧ t = { s with regs := t.regs } ∧
        ∀ off, off ≠ om.1 → hostRead off 4 t = hostRead off 4 s

/-- 10 R123, 20 R202: a host write of framebuffer word `j` puts bits 8k+7:8k of the value into `FB[4j+k]`, is read back whole, and
leaves every other byte and all else as it was. -/
def Obligations.FramebufferWordWriteThenRead : Prop :=
  ∀ (s : State) (j : Nat) (v : Word), j < 256 → s.status.busy = false →
    ∃ t, hostWrite (0x400 + 4 * j) 4 v s = .next t ∧ hostRead (0x400 + 4 * j) 4 t = .ok v ∧ t = { s with fb := t.fb } ∧
      (∀ k, k < 4 → t.fb.read (4 * j + k) = some (v.extractLsb' (8 * k) 8)) ∧
      ∀ a, a / 4 ≠ j → t.fb.read a = s.fb.read a

/-- 70 R804: a host read of an FB word faults exactly when one of its bytes was not written since reset; a reset leaves every
byte unwritten. -/
def Obligations.UnwrittenFramebufferReadFaults : Prop :=
  (∀ (s : State) (j : Nat), j < 256 →
    ((∃ i, hostRead (0x400 + 4 * j) 4 s = .error (.unwrittenFb i)) ↔ ∃ k, k < 4 ∧ s.fb.read (4 * j + k) = none)) ∧
  ∀ (s : State) (a : Nat), (resetInput s).fb.read a = none

/-! ### Raw commands -/

/-- 40 R412: START, in every phase: its four line writes, PHASE = ADDRESSING, ERR = NONE, NACKCNT = 0; ACK, RXDATA and all
else unchanged.
The commit's own turn and what the engine holds after it are the model's choices (log 4, log 8). -/
def Obligations.StartRuns : Prop :=
  ∀ s : State, ∃ t, exec .start s = .next t ∧ acceptedFrom s t ∧
    engineTurns 5 t = .next (withEvents startEvents
      { s with
        status := { s.status with busy := false, phase := .addressing, err := .none, nackCnt := 0 }
        lines := ⟨false, false, s.lines.sampled⟩
        eng := Engine.idle })

/-- 40 R413: STOP outside IDLE: its three line writes, PHASE = IDLE, both lines released, ERR = NONE, NACKCNT = 0.
The commit's own turn and what the engine holds after it are the model's choices (log 4, log 8). -/
def Obligations.StopRuns : Prop :=
  ∀ s : State, s.status.phase ≠ .idle → ∃ t, exec .stop s = .next t ∧ acceptedFrom s t ∧
    engineTurns 4 t = .next (withEvents stopEvents
      { s with
        status := { s.status with busy := false, phase := .idle, err := .none, nackCnt := 0 }
        lines := ⟨true, true, s.lines.sampled⟩
        eng := Engine.idle })

/-- 40 R414, R408: WRITE_BYTE outside IDLE: eight groups of line writes, most significant bit first, no sample, PHASE =
TRANSFER, SCL low and SDA at bit 0.
The commit's own turn and what the engine holds after it are the model's choices (log 4, log 8). -/
def Obligations.WriteByteRuns : Prop :=
  ∀ (s : State) (b : Byte), s.status.phase ≠ .idle → ∃ t, exec (.writeByte b) s = .next t ∧ acceptedFrom s t ∧
    engineTurns 25 t = .next (withEvents (writeEvents b)
      { s with
        status := { s.status with busy := false, phase := .transfer, err := .none, nackCnt := 0 }
        lines := ⟨false, b.getLsbD 0, s.lines.sampled⟩
        eng := Engine.idle })

/-- 40 R415, R419: WAIT_ACK outside IDLE: ACK = 1 and NACKCNT = 0 when the sample is 0, ACK = 0 and NACKCNT = 1 when it is 1;
ERR = NONE and no STOP in both cases, whatever CTRL says.
The commit's own turn and what the engine holds after it are the model's choices (log 4, log 8). -/
def Obligations.WaitAckRuns : Prop :=
  ∀ s : State, s.status.phase ≠ .idle → ∃ t, exec .waitAck s = .next t ∧ acceptedFrom s t ∧
    engineTurns 5 t = .next (withEvents (ackEvents (answer s 0))
      { s with
        status :=
          { s.status with
            busy := false
            ack := !answer s 0
            phase := .transfer
            err := .none
            nackCnt := if answer s 0 then 1 else 0 }
        lines := ⟨false, true, answer s 0⟩
        eng := Engine.idle
        env := envAfter s 1 })

/-- 40 R416, R410: READ_BYTE outside IDLE: RXDATA = the eight samples, most significant first; the acknowledge bit sent is the
operand's; STATUS.ACK unchanged; PHASE = TRANSFER.
The commit's own turn and what the engine holds after it are the model's choices (log 4, log 8). -/
def Obligations.ReadByteRuns : Prop :=
  ∀ (s : State) (k : BitVec 1), s.status.phase ≠ .idle → ∃ t, exec (.readByte k) s = .next t ∧ acceptedFrom s t ∧
    engineTurns 29 t = .next (withEvents (readEvents (answer s) 0 (k == 1))
      { s with
        status := { s.status with busy := false, phase := .transfer, err := .none, nackCnt := 0 }
        rxData := byteOfAnswers (answer s) 0
        lines := ⟨false, !(k == 1), answer s 7⟩
        eng := Engine.idle
        env := envAfter s 8 })

/-! ### Sensor commands -/

/-- 41 R503: SNS_WAKE in IDLE is the one transaction address+WRITE, REG_PWR_MGMT, 0x00, under either NACK policy.
The commit's own turn and what the engine holds after it are the model's choices (log 4, log 8). -/
def Obligations.SnsWakeRuns : Prop :=
  ∀ s : State, s.status.phase = .idle →
    RunsTransactions .snsWake s [[s.regs.snsAddr ++ 0#1, s.par.regPwrMgmt, 0x00]]

/-- 41 R504: SNS_CONFIG in IDLE is the four register writes in the argument order, each byte of SNS_CFG verbatim.
The commit's own turn and what the engine holds after it are the model's choices (log 4, log 8). -/
def Obligations.SnsConfigRuns : Prop :=
  ∀ s : State, s.status.phase = .idle →
    RunsTransactions .snsConfig s
      [[s.regs.snsAddr ++ 0#1, s.par.regSmplrtDiv, s.regs.snsCfg.extractLsb' 0 8],
       [s.regs.snsAddr ++ 0#1, s.par.regConfig, s.regs.snsCfg.extractLsb' 8 8],
       [s.regs.snsAddr ++ 0#1, s.par.regGyroConfig, s.regs.snsCfg.extractLsb' 16 8],
       [s.regs.snsAddr ++ 0#1, s.par.regAccelConfig, s.regs.snsCfg.extractLsb' 24 8]]

/-- 41 R505 to R507: SNS_READ in IDLE that no NACK aborts: 487 engine steps, then one commit writes the seven samples, big-endian
fields of the 14 bytes read, SAMPLE_VALID = 1, ERR = NONE, ACK of the third ack-wait.
The commit's own turn and what the engine holds after it are the model's choices (log 4, log 8). -/
def Obligations.SnsReadCompletes : Prop :=
  ∀ s : State, s.status.phase = .idle →
    (s.regs.abortOnNack = false ∨ (answer s 0 = false ∧ answer s 1 = false ∧ answer s 2 = false)) →
    ∃ t, exec .snsRead s = .next t ∧ acceptedFrom s t ∧ engineTurns 488 t = .next (afterRead s)

/-- 41 R505, R507, 40 R424: SNS_READ under abort-on-NACK, NACKed at its first, second or third ack-wait: a STOP at once, ERR = NACK,
SAMPLE_VALID = 0, the samples unchanged.
The commit's own turn and what the engine holds after it are the model's choices (log 4, log 8). -/
def Obligations.SnsReadAborts : Prop :=
  ∀ s : State, s.status.phase = .idle → s.regs.abortOnNack = true →
    ∃ t, exec .snsRead s = .next t ∧ acceptedFrom s t ∧
      (answer s 0 = true → engineTurns 36 t = .next
        (afterAbortedRead s (txnEvents [(s.regs.snsAddr ++ 0#1, true)]) [true])) ∧
      (answer s 0 = false → answer s 1 = true → engineTurns 64 t = .next
        (afterAbortedRead s (txnEvents [(s.regs.snsAddr ++ 0#1, false), (s.par.regDataFirst, true)]) [false, true])) ∧
      (answer s 0 = false → answer s 1 = false → answer s 2 = true → engineTurns 96 t = .next
        (afterAbortedRead s (readHeadEvents s false false true ++ stopEvents) [false, false, true]))

/-! ### Display commands -/

/-- 42 R603, R606: DSP_INIT in IDLE sends INIT_SEQ in its order, one command transaction a byte.
The commit's own turn and what the engine holds after it are the model's choices (log 4, log 8). -/
def Obligations.DspInitRuns : Prop :=
  ∀ s : State, s.status.phase = .idle → s.par.initSeq ≠ [] →
    RunsTransactions .dspInit s (s.par.initSeq.map fun b => [s.regs.dspAddr ++ 0#1, 0x00, b])

/-- 42 R607: DSP_SET_WINDOW in IDLE sends the two 3-byte range commands as given, one transaction a byte.
The commit's own turn and what the engine holds after it are the model's choices (log 4, log 8). -/
def Obligations.DspSetWindowRuns : Prop :=
  ∀ (s : State) (cs ce : BitVec 7) (ps pe : BitVec 3), s.status.phase = .idle →
    RunsTransactions (.dspSetWindow cs ce ps pe) s
      ([s.par.opColAddr, 0#1 ++ cs, 0#1 ++ ce, s.par.opPageAddr, 0#5 ++ ps, 0#5 ++ pe].map
        fun b => [s.regs.dspAddr ++ 0#1, 0x00, b])

/-- 42 R613: DSP_SET_CURSOR in IDLE sends 0xB0 + PAGE, the low nibble of COL, and 0x10 + the high bits of COL.
The commit's own turn and what the engine holds after it are the model's choices (log 4, log 8). -/
def Obligations.DspSetCursorRuns : Prop :=
  ∀ (s : State) (page : BitVec 3) (col : BitVec 7), s.status.phase = .idle →
    RunsTransactions (.dspSetCursor page col) s
      ([BitVec.ofNat 8 (0xB0 + page.toNat), BitVec.ofNat 8 (col.toNat % 16), BitVec.ofNat 8 (0x10 + col.toNat / 16)].map
        fun b => [s.regs.dspAddr ++ 0#1, 0x00, b])

/-- 42 R604, R610, R612: DSP_PUTCHAR in IDLE is one data transaction: 0x40, the glyph's columns (a blank glyph for a code outside
FONT), one blank column.
The commit's own turn and what the engine holds after it are the model's choices (log 4, log 8). -/
def Obligations.DspPutcharRuns : Prop :=
  ∀ (s : State) (c : Byte), s.status.phase = .idle →
    (∀ g, fontAt s.par c = some g →
      RunsTransactions (.dspPutchar c) s [(s.regs.dspAddr ++ 0#1) :: 0x40 :: (g ++ [0x00])]) ∧
    (fontAt s.par c = none →
      RunsTransactions (.dspPutchar c) s
        [(s.regs.dspAddr ++ 0#1) :: 0x40 :: List.replicate (glyphColumns s.par.gw + 1) 0x00])

/-- 42 R608, R609: DSP_WRITE_FRAME in IDLE with LEN = 1024, CHUNK.SIZE in 1 to 1024 and FB written sends FB in chunks, one data
transaction a chunk.
The commit's own turn and what the engine holds after it are the model's choices (log 4, log 8). -/
def Obligations.DspWriteFrameRuns : Prop :=
  ∀ s : State, s.status.phase = .idle → 1 ≤ s.regs.chunk.toNat → s.regs.chunk.toNat ≤ 1024 → frameWritten s.fb →
    RunsTransactions (.dspWriteFrame 1024) s (frameTransactions s)

/-- 42 R608, whole: the chunks of a frame, for every legal chunk size. -/
def Obligations.ChunksPartitionTheFrame : Prop :=
  ∀ c : Nat, 1 ≤ c → c ≤ 1024 →
    (frameChunks c).length = (1024 + c - 1) / c ∧
    (frameChunks c).flatten = List.range 1024 ∧
    (∀ k, (h : k < (frameChunks c).length) →
      ((frameChunks c)[k].head? = some (k * c)) ∧
      (frameChunks c)[k].length = if k + 1 = (frameChunks c).length then 1024 - k * c else c)

/-- 42 R615, whole: a DSP_WRITE_FRAME that was accepted and ends with ERR = NONE has sent, after the 0x40 of each chunk, exactly
FB[0..1023] in order, in chunks whose sizes sum to 1024; with LEN not 1024 it adds no line event. -/
def Obligations.FrameIsSentWhole : Prop :=
  (∀ (s t u : State) (len : BitVec 11) (n : Nat), s.status.busy = false →
    exec (.dspWriteFrame len) s = .next t → t.status.busy = true →
    engineTurns n t = .next u → u.status.busy = false → u.status.err = .none →
    ∃ sent : List (List (Byte × Bit)),
      u.trace = s.trace ++ sent.flatMap txnEvents ∧
      (∀ x ∈ sent, (x.map (·.1)).take 2 = [s.regs.dspAddr ++ 0#1, 0x40]) ∧
      (sent.flatMap fun x => (x.map (·.1)).drop 2).map some = (List.range 1024).map s.fb.read ∧
      (sent.map fun x => (x.drop 2).length).sum = 1024) ∧
  ∀ (s t u : State) (len : BitVec 11) (n : Nat), s.status.busy = false → len ≠ 1024 →
    exec (.dspWriteFrame len) s = .next t → engineTurns n t = .next u → u.trace = s.trace

/-- 42 R609, 30 R312: in IDLE, LEN other than 1024 or CHUNK.SIZE outside 1 to 1024 is CmdError(INVAL): ERR and NACKCNT are written
and nothing else. -/
def Obligations.FrameOfWrongLengthIsRejected : Prop :=
  ∀ (s : State) (len : BitVec 11), s.status.phase = .idle →
    len ≠ 1024 ∨ s.regs.chunk.toNat = 0 ∨ 1024 < s.regs.chunk.toNat →
    exec (.dspWriteFrame len) s = .next { s with status := { s.status with err := .inval, nackCnt := 0 } }

/-! ### Transactions and the bus -/

/-- 40 R423, R424: what a command of write transactions sends. Without an abort, every byte of every transaction, each with the
answer of its own ack-wait; under continue-on-NACK there is no abort; an abort happens at the first NACK, after which
nothing more is sent. -/
def Obligations.TransactionsEndAtTheFirstNack : Prop :=
  ∀ (abort : Bit) (ans : Nat → Bit) (k : Nat) (txns : List (List Byte)),
    let r := carryAll abort ans k txns
    let sent := r.1.flatten
    sent.map (·.2) = (List.range sent.length).map (fun j => ans (k + j)) ∧
    sent.map (·.1) = txns.flatten.take sent.length ∧
    (r.2 = false → r.1.map (fun t => t.map (·.1)) = txns) ∧
    (r.2 = false → abort = true → ∀ p ∈ sent, p.2 = false) ∧
    (r.2 = true → abort = true ∧ ∃ before last, sent = before ++ [last] ∧ last.2 = true ∧ ∀ p ∈ before, p.2 = false)

/-- 40 R405, R408, R409, R426, 00 R11: a listener on an idle bus reads a write transaction as START, each byte most significant
bit first with its acknowledge bit, STOP, and no other condition. -/
def Obligations.ListenerReadsTheTransaction : Prop :=
  ∀ sent : List (Byte × Bit),
    busItems true true none (txnEvents sent) =
      .start :: (sent.flatMap fun p =>
        [.bit (p.1.getLsbD 7), .bit (p.1.getLsbD 6), .bit (p.1.getLsbD 5), .bit (p.1.getLsbD 4), .bit (p.1.getLsbD 3),
          .bit (p.1.getLsbD 2), .bit (p.1.getLsbD 1), .bit (p.1.getLsbD 0), .bit p.2]) ++ [.stop]

/-- 40 R405, R406 to R410, R417: what a listener reads off each raw command from a block at rest (10 R127): START is one START
condition, STOP one STOP condition, and the others are bits only. -/
def Obligations.ListenerReadsTheRawCommands : Prop :=
  ∀ s : State, LinesAtRest s →
    busItems s.lines.scl s.lines.sda none startEvents = [.start] ∧
    (s.status.phase ≠ .idle →
      busItems s.lines.scl s.lines.sda none stopEvents = [.stop] ∧
      (∀ b : Byte, busItems s.lines.scl s.lines.sda none (writeEvents b) =
        [7, 6, 5, 4, 3, 2, 1, 0].map fun i => .bit (b.getLsbD i)) ∧
      (∀ a : Bit, busItems s.lines.scl s.lines.sda none (ackEvents a) = [.bit a]) ∧
      (∀ (ans : Nat → Bit) (k : Bit), busItems s.lines.scl s.lines.sda none (readEvents ans 0 k) =
        (List.range 8).map (fun j => .bit (ans j)) ++ [.bit (!k)]))

/-- 40 R418, whole: line writes (settles), samples and engine steps of each primitive, whatever the data. -/
def Obligations.PrimitiveStepCounts : Prop :=
  (settleCount pStart = 4 ∧ sampleCount pStart = 0 ∧ pStart.length = 4) ∧
  (settleCount pStop = 3 ∧ sampleCount pStop = 0 ∧ pStop.length = 3) ∧
  (∀ src, settleCount (pWrite src) = 24 ∧ sampleCount (pWrite src) = 0 ∧ (pWrite src).length = 24) ∧
  (∀ last, isSample last = false →
    settleCount (pWaitAck last) = 3 ∧ sampleCount (pWaitAck last) = 1 ∧ (pWaitAck last).length = 4) ∧
  (∀ k last, isSample last = false →
    settleCount (pRead k last) = 20 ∧ sampleCount (pRead k last) = 8 ∧ (pRead k last).length = 28)

/-- 70 R812, R813: the procedure an accepted command starts with has exactly the command's engine steps and settles, and each
engine turn that is no commit adds exactly one event to the trace. -/
def Obligations.CommandStepCounts : Prop :=
  (∀ (i : Instr) (s t : State), s.status.busy = false → fontOk s.par → exec i s = .next t → t.status.busy = true →
    t.eng.pos.todo.length = stepsOf i s ∧ settleCount t.eng.pos.todo = settlesOf i s) ∧
  ∀ s u : State, s.status.busy = true → s.eng.pos.todo ≠ [] → engineTurn s = .next u →
    u.status.busy = true ∧ ∃ e, u.trace = s.trace ++ [e]

/-! ### Frames -/

/-- 10 R123, R126, R128, 20 R205: an engine turn changes no parameter, configuration register or FB byte and nothing of the host;
until the commit it changes no committed result either. -/
def Obligations.EngineTurnFrame : Prop :=
  ∀ s u : State, engineTurn s = .next u →
    u.par = s.par ∧ u.regs = s.regs ∧ u.host = s.host ∧ u.turns = s.turns ∧
    (∀ a, u.fb.read a = s.fb.read a) ∧
    (u.status.busy = true → u.status = s.status ∧ u.rxData = s.rxData ∧ u.samples = s.samples)

/-- 10 R114, R116, R122, R123, 60 R705: what a whole command leaves alone, at every point from its CMD write on: RXDATA unless it is
READ_BYTE, the samples and SAMPLE_VALID unless it is SNS_READ, and always the configuration registers, every FB byte, the
parameters and the host. -/
def Obligations.CommandFrame : Prop :=
  ∀ (i : Instr) (s t u : State) (n : Nat), s.status.busy = false → exec i s = .next t → engineTurns n t = .next u →
    u.par = s.par ∧ u.regs = s.regs ∧ u.host = s.host ∧ u.turns = s.turns ∧
    (∀ a, u.fb.read a = s.fb.read a) ∧
    ((∀ k, i ≠ .readByte k) → u.rxData = s.rxData) ∧
    (i ≠ .snsRead → u.samples = s.samples ∧ u.status.sampleValid = s.status.sampleValid)

/-- 10 R128: "No host access and no command changes them", nor does a reset (70 R803). -/
def Obligations.ParametersNeverChange : Prop :=
  ∀ s u : State, step s = .next u → u.par = s.par

/-- 10 R101, 40 R401, R402: but for a reset, a step leaves the trace as it was or appends one event; only the engine appends, and
the event tells the line it wrote or the sample it took. -/
def Obligations.TraceOnlyGrows : Prop :=
  ∀ s u : State, step s = .next u → nextTurn s ≠ .reset →
    (u.trace = s.trace ∧ u.lines = s.lines) ∨
    (nextTurn s = .engine ∧ ∃ e, u.trace = s.trace ++ [e] ∧
      u.lines = match e with
        | .scl v => { s.lines with scl := v }
        | .sda v => { s.lines with sda := v }
        | .smp b => { s.lines with sampled := b })

/-! ### Invariants and whole-machine rules -/

/-- 70 R802, R803, 10 R127: the invariant holds after reset, whatever the parameters. -/
def Obligations.InvariantHoldsAtReset : Prop :=
  MachineInv State.reset ∧ ∀ p : Params, MachineInv (State.resetWith p)

/-- 10 R103, R127, 40 R417: every step, of whichever agent, keeps the invariant. -/
def Obligations.EveryStepKeepsTheInvariant : Prop :=
  ∀ s u : State, MachineInv s → step s = .next u → MachineInv u

/-- 10 R127, whole: whatever the host does and however host, engine and reset interleave from reset on, at every point where BUSY = 0
the lines are released in IDLE, and SCL is low in ADDRESSING and TRANSFER. The host's program, the turns and what goes on over a
reset are said in the model's way (log 2, log 3, log 14). -/
def Obligations.LinesAtRestWheneverNotBusy : Prop :=
  ∀ (p : Params) (ops : List HostOp) (ts : List Turn) (n : Nat) (u : State),
    Host.Core.run Sys2Proof.core n { State.resetWith p with host := ⟨ops, []⟩, turns := ts } = .next u →
    u.status.busy = false →
    (u.status.phase = .idle → u.lines.scl = true ∧ u.lines.sda = true) ∧
    (u.status.phase = .addressing ∨ u.status.phase = .transfer → u.lines.scl = false)

/-- 40 R402, R417: in a state of the invariant, a sample is taken only while SCL_OUT = SDA_OUT = 1, and reads the environment's
bit. -/
def Obligations.SamplesAreTakenOnReleasedLines : Prop :=
  ∀ (s u : State) (b : Bit), MachineInv s → step s = .next u → u.trace = s.trace ++ [.smp b] →
    s.lines.scl = true ∧ s.lines.sda = true ∧ b = answer s 0

/-- 40 R428, 70 R813, R817: every command that is accepted commits after at most its engine steps, the three of an abort STOP,
and the commit; a frame only on a written FB (70 R804).
That the commit takes a turn of its own is the model's choice (log 4). -/
def Obligations.EveryAcceptedCommandCommits : Prop :=
  ∀ (i : Instr) (s t : State), s.status.busy = false → exec i s = .next t → t.status.busy = true →
    ((∃ len, i = .dspWriteFrame len) → frameWritten s.fb) →
    ∃ n u, n ≤ t.eng.pos.todo.length + 4 ∧ engineTurns n t = .next u ∧ u.status.busy = false

/-- 20 R205, R206, R213: while the host only reads and polls, how its accesses interleave with the engine does not matter to the
device: it is what the engine turns alone make of it.
The turns as data are the model's way to say the interleaving (log 3). -/
def Obligations.HostReadsNeverDisturbTheDevice : Prop :=
  ∀ (ts : List Turn) (s u : State), (∀ t ∈ ts, t ≠ .reset) → (∀ op ∈ s.host.program, readsOnly op = true) →
    Host.Core.run Sys2Proof.core ts.length { s with turns := ts } = .next u →
    ∃ v, engineTurns (ts.count .engine) s = .next v ∧ device u = device v

/-- 70 R811, 20 R209: a host that polls after every CMD write before it writes again never gets the BusError of a busy block,
however host and engine interleave, and stays such a host. Over a reset turn, also in the middle of a command, it stays one because
the reset input keeps the host's program, which is the model's choice (log 14); the list of accesses, the turns and one read
of a poll a turn are the model's way to say the host (log 2, log 3, log 13). -/
def Obligations.PollingHostNeverMeetsBusy : Prop :=
  ∀ s : State, polledProgram s.status.busy s.host.program = true →
    (∀ off, step s ≠ .fault (.busError .busy off)) ∧
    ∀ u, step s = .next u → polledProgram u.status.busy u.host.program = true

/-! ### Reset, environment, counters -/

/-- 70 R802, whole: every register reads its reset value, for every value of the parameters; FB is unspecified, so a read of it
faults (R804). -/
def Obligations.RegistersAfterReset : Prop :=
  ∀ p : Params,
    let rd := fun off => hostRead off 4 (State.resetWith p)
    rd 0x000 = .ok 0x00000001 ∧ rd 0x004 = .ok (0#16 ++ p.delayReset) ∧ rd 0x008 = .ok 0 ∧ rd 0x00C = .ok 0 ∧
    rd 0x010 = .ok 0 ∧ rd 0x014 = .ok 0x00000007 ∧ rd 0x018 = .ok (0#25 ++ p.sensorAddrReset) ∧
    rd 0x01C = .ok (0#25 ++ p.displayAddrReset) ∧ rd 0x020 = .ok 0 ∧ rd 0x024 = .ok (0#21 ++ p.chunkReset) ∧
    (∀ off ∈ [0x040, 0x044, 0x048, 0x04C, 0x050, 0x054, 0x058], rd off = .ok 0) ∧
    ∀ j, j < 256 → rd (0x400 + 4 * j) = .error (.unwrittenFb (4 * j))

/-- 70 R802, R803, R805: the reset input, also in the middle of a command: no commit, no STOP, an empty trace, lines released, no command,
the fake script at its start, the parameters kept; every register, RXDATA and the sample registers among them, at its reset
value, and read as after construction. That the host's program and the turns to come go on is the model's
choice (log 14). -/
def Obligations.ResetInputEndsTheCommand : Prop :=
  ∀ (s : State) (ts : List Turn), s.turns = .reset :: ts →
    ∃ u, step s = .next u ∧ u.lines = ⟨true, true, true⟩ ∧ u.eng.cmd = none ∧ u.status.busy = false ∧ u.trace = [] ∧
      u.par = s.par ∧ u.env.calls = 0 ∧ statusWord u.status = 0 ∧ u.regs = (State.resetWith s.par).regs ∧
      u.rxData = 0 ∧ u.samples = ⟨0, 0, 0, 0, 0, 0, 0⟩ ∧
      (∀ off size, hostRead off size u = hostRead off size (State.resetWith s.par)) ∧
      (s.par.backend = .fake → envSda u = s.par.fakeScript.getD 0 true) ∧ u.host = s.host ∧ u.turns = ts

/-- 40 R402, R420: under BACKEND = FAKE the k-th sample since reset, taken with SDA released, reads FAKE_SCRIPT[k], and 1 when the
script is exhausted; the pins stay released. -/
def Obligations.FakeBackendAnswersItsScript : Prop :=
  ∀ s : State, s.par.backend = .fake → s.lines.sda = true →
    (∀ h : s.env.calls < s.par.fakeScript.length, (smp s).lines.sampled = s.par.fakeScript[s.env.calls]) ∧
    (s.par.fakeScript.length ≤ s.env.calls → (smp s).lines.sampled = true) ∧
    (smp s).env.calls = s.env.calls + 1 ∧ pins s = (true, true)

/-- 00 R10, 40 R427: counting `n` NACKs from 0 gives `min(n, 255)`: the counter stops at 255 and never wraps. -/
def Obligations.NackCounterSaturates : Prop :=
  ∀ n : Nat, (Nat.repeat sat8Succ n 0).toNat = min n 255

/-! ### Samples and records -/

/-- 41 R508, whole: packing the seven values of any 14-byte dump back, high byte first, gives the dump; so does packing the low
halves of the seven sample registers. -/
def Obligations.BurstDecodeIsInvertible : Prop :=
  ∀ buf : Vector Byte 14,
    packBigEndian ((List.finRange 7).map (burstField buf)) = buf.toList ∧
    packBigEndian ([(decodeBurst buf).ax, (decodeBurst buf).ay, (decodeBurst buf).az, (decodeBurst buf).t,
      (decodeBurst buf).gx, (decodeBurst buf).gy, (decodeBurst buf).gz].map fun w => w.extractLsb' 0 16) = buf.toList

/-- 41 R506, 10 R122: a sample register holds the two's-complement value of its two bytes, high byte first. -/
def Obligations.SampleValueIsTwosComplement : Prop :=
  ∀ hi lo : Byte, (sampleWord (v16 hi lo)).toInt =
    if hi.toNat < 128 then 256 * (hi.toNat : Int) + lo.toNat else 256 * (hi.toNat : Int) + lo.toNat - 65536

/-- 41 R509, R510: the host records of a burst: its bytes, each pair swapped to little-endian, three pairs or all seven. -/
def Obligations.HostRecordsAreLittleEndian : Prop :=
  ∀ buf : Vector Byte 14,
    recordA (decodeBurst buf) = [buf[1], buf[0], buf[3], buf[2], buf[5], buf[4]] ∧
    recordB (decodeBurst buf) = [buf[1], buf[0], buf[3], buf[2], buf[5], buf[4], buf[7], buf[6], buf[9], buf[8], buf[11],
      buf[10], buf[13], buf[12]]

/-! ### What the registers read, what a step of the host does, the scaled values of a sample -/

/-- 10 R104 to R107, R116, R118 to R122: in every state, so also while BUSY = 1, a host read of each register that holds a field
gives that field, reserved bits 0. STATUS and LINES have statements of their own. -/
def Obligations.RegistersReadTheirFields : Prop :=
  ∀ s : State,
    hostRead 0x000 4 s = .ok (0#31 ++ BitVec.ofBool s.regs.abortOnNack) ∧ hostRead 0x004 4 s = .ok (0#16 ++ s.regs.delay) ∧
    hostRead 0x010 4 s = .ok (0#24 ++ s.rxData) ∧ hostRead 0x018 4 s = .ok (0#25 ++ s.regs.snsAddr) ∧
    hostRead 0x01C 4 s = .ok (0#25 ++ s.regs.dspAddr) ∧ hostRead 0x020 4 s = .ok s.regs.snsCfg ∧
    hostRead 0x024 4 s = .ok (0#21 ++ s.regs.chunk) ∧
    hostRead 0x040 4 s = .ok s.samples.ax ∧ hostRead 0x044 4 s = .ok s.samples.ay ∧ hostRead 0x048 4 s = .ok s.samples.az ∧
    hostRead 0x04C 4 s = .ok s.samples.t ∧ hostRead 0x050 4 s = .ok s.samples.gx ∧ hostRead 0x054 4 s = .ok s.samples.gy ∧
    hostRead 0x058 4 s = .ok s.samples.gz

/-- 20 R201, 30 R311: when the host moves next, the step is its next access: a write is `hostWrite`, a read that is answered is
kept, one that is not answered stops the host program, and a `poll` reads STATUS and is over once it reads BUSY = 0. The
host's list of accesses, the list of its reads and one read of a poll a turn are the model's choices (log 2, log 12, log 13). -/
def Obligations.StepMakesTheHostsNextAccess : Prop :=
  ∀ (s : State) (rest : List HostOp), nextTurn s = .host →
    (∀ off size v, s.host.program = .write off size v :: rest →
      step s = hostWrite off size v (setProgram rest (dropTurn s))) ∧
    (∀ off size v, s.host.program = .read off size :: rest → hostRead off size s = .ok v →
      step s = .next { dropTurn s with host := ⟨rest, (off, v) :: s.host.reads⟩ }) ∧
    (∀ off size f, s.host.program = .read off size :: rest → hostRead off size s = .error f → step s = .fault f) ∧
    (s.host.program = .poll :: rest →
      step s = .next { dropTurn s with
        host := ⟨if s.status.busy then .poll :: rest else rest, (0x008, statusWord s.status) :: s.host.reads⟩ })

/-- 41 R511: the scaled value of each field of a decoded burst, as an exact rational of its raw value, and its text line. The
decimal text of the rational is a free value (log 21). -/
def Obligations.ScaledValuesOfASample : Prop :=
  ∀ buf : Vector Byte 14,
    let s := decodeBurst buf
    let raw := fun i : Fin 7 => (burstField buf i).toInt
    (∀ i : Fin 7, i.val ≤ 2 → scaledField s i = (raw i : Rat) * (980665 / 100000) / 16384) ∧
    scaledField s 3 = (raw 3 : Rat) / 340 + 3653 / 100 ∧
    (∀ i : Fin 7, 4 ≤ i.val → scaledField s i = (raw i : Rat) / 131) ∧
    ∀ i : Fin 7, attributeLine s i = toString (raw i) ++ "\t" ++ Config.decimalText (scaledField s i)
end

