-- ==== Sys2Proof/Laws/State.lean ====
section
/-! SUPPORT. One lemma per field of State per update, true by unfolding the update, so that no proof unfolds a record update. -/

namespace Sys2Proof.Machine

/-! ### emit -/

@[simp] theorem emit_par (e : Event) (s : State) : (emit e s).par = s.par := rfl
@[simp] theorem emit_regs (e : Event) (s : State) : (emit e s).regs = s.regs := rfl
@[simp] theorem emit_status (e : Event) (s : State) : (emit e s).status = s.status := rfl
@[simp] theorem emit_rxData (e : Event) (s : State) : (emit e s).rxData = s.rxData := rfl
@[simp] theorem emit_samples (e : Event) (s : State) : (emit e s).samples = s.samples := rfl
@[simp] theorem emit_fb (e : Event) (s : State) : (emit e s).fb = s.fb := rfl
@[simp] theorem emit_lines (e : Event) (s : State) : (emit e s).lines = s.lines := rfl
@[simp] theorem emit_eng (e : Event) (s : State) : (emit e s).eng = s.eng := rfl
@[simp] theorem emit_traceRev (e : Event) (s : State) : (emit e s).traceRev = e :: s.traceRev := rfl
@[simp] theorem emit_env (e : Event) (s : State) : (emit e s).env = s.env := rfl
@[simp] theorem emit_host (e : Event) (s : State) : (emit e s).host = s.host := rfl
@[simp] theorem emit_turns (e : Event) (s : State) : (emit e s).turns = s.turns := rfl

/-! ### settle -/

@[simp] theorem settle_par (s : State) : (settle s).par = s.par := rfl
@[simp] theorem settle_regs (s : State) : (settle s).regs = s.regs := rfl
@[simp] theorem settle_status (s : State) : (settle s).status = s.status := rfl
@[simp] theorem settle_rxData (s : State) : (settle s).rxData = s.rxData := rfl
@[simp] theorem settle_samples (s : State) : (settle s).samples = s.samples := rfl
@[simp] theorem settle_fb (s : State) : (settle s).fb = s.fb := rfl
@[simp] theorem settle_lines (s : State) : (settle s).lines = s.lines := rfl
@[simp] theorem settle_eng (s : State) : (settle s).eng = { s.eng with settle := s.regs.delay } := rfl
@[simp] theorem settle_traceRev (s : State) : (settle s).traceRev = s.traceRev := rfl
@[simp] theorem settle_env (s : State) : (settle s).env = s.env := rfl
@[simp] theorem settle_host (s : State) : (settle s).host = s.host := rfl
@[simp] theorem settle_turns (s : State) : (settle s).turns = s.turns := rfl

/-! ### settled -/

@[simp] theorem settled_par (s : State) : (settled s).par = s.par := rfl
@[simp] theorem settled_regs (s : State) : (settled s).regs = s.regs := rfl
@[simp] theorem settled_status (s : State) : (settled s).status = s.status := rfl
@[simp] theorem settled_rxData (s : State) : (settled s).rxData = s.rxData := rfl
@[simp] theorem settled_samples (s : State) : (settled s).samples = s.samples := rfl
@[simp] theorem settled_fb (s : State) : (settled s).fb = s.fb := rfl
@[simp] theorem settled_lines (s : State) : (settled s).lines = s.lines := rfl
@[simp] theorem settled_eng (s : State) : (settled s).eng = { s.eng with settle := 0 } := rfl
@[simp] theorem settled_traceRev (s : State) : (settled s).traceRev = s.traceRev := rfl
@[simp] theorem settled_env (s : State) : (settled s).env = s.env := rfl
@[simp] theorem settled_host (s : State) : (settled s).host = s.host := rfl
@[simp] theorem settled_turns (s : State) : (settled s).turns = s.turns := rfl

/-! ### scl -/

@[simp] theorem scl_par (v : Bit) (s : State) : (scl v s).par = s.par := rfl
@[simp] theorem scl_regs (v : Bit) (s : State) : (scl v s).regs = s.regs := rfl
@[simp] theorem scl_status (v : Bit) (s : State) : (scl v s).status = s.status := rfl
@[simp] theorem scl_rxData (v : Bit) (s : State) : (scl v s).rxData = s.rxData := rfl
@[simp] theorem scl_samples (v : Bit) (s : State) : (scl v s).samples = s.samples := rfl
@[simp] theorem scl_fb (v : Bit) (s : State) : (scl v s).fb = s.fb := rfl
@[simp] theorem scl_lines (v : Bit) (s : State) : (scl v s).lines = { s.lines with scl := v } := rfl
@[simp] theorem scl_eng (v : Bit) (s : State) : (scl v s).eng = { s.eng with settle := s.regs.delay } := rfl
@[simp] theorem scl_traceRev (v : Bit) (s : State) : (scl v s).traceRev = .scl v :: s.traceRev := rfl
@[simp] theorem scl_env (v : Bit) (s : State) : (scl v s).env = s.env := rfl
@[simp] theorem scl_host (v : Bit) (s : State) : (scl v s).host = s.host := rfl
@[simp] theorem scl_turns (v : Bit) (s : State) : (scl v s).turns = s.turns := rfl

/-! ### sda -/

@[simp] theorem sda_par (v : Bit) (s : State) : (sda v s).par = s.par := rfl
@[simp] theorem sda_regs (v : Bit) (s : State) : (sda v s).regs = s.regs := rfl
@[simp] theorem sda_status (v : Bit) (s : State) : (sda v s).status = s.status := rfl
@[simp] theorem sda_rxData (v : Bit) (s : State) : (sda v s).rxData = s.rxData := rfl
@[simp] theorem sda_samples (v : Bit) (s : State) : (sda v s).samples = s.samples := rfl
@[simp] theorem sda_fb (v : Bit) (s : State) : (sda v s).fb = s.fb := rfl
@[simp] theorem sda_lines (v : Bit) (s : State) : (sda v s).lines = { s.lines with sda := v } := rfl
@[simp] theorem sda_eng (v : Bit) (s : State) : (sda v s).eng = { s.eng with settle := s.regs.delay } := rfl
@[simp] theorem sda_traceRev (v : Bit) (s : State) : (sda v s).traceRev = .sda v :: s.traceRev := rfl
@[simp] theorem sda_env (v : Bit) (s : State) : (sda v s).env = s.env := rfl
@[simp] theorem sda_host (v : Bit) (s : State) : (sda v s).host = s.host := rfl
@[simp] theorem sda_turns (v : Bit) (s : State) : (sda v s).turns = s.turns := rfl

/-! ### countCall -/

@[simp] theorem countCall_par (s : State) : (countCall s).par = s.par := rfl
@[simp] theorem countCall_regs (s : State) : (countCall s).regs = s.regs := rfl
@[simp] theorem countCall_status (s : State) : (countCall s).status = s.status := rfl
@[simp] theorem countCall_rxData (s : State) : (countCall s).rxData = s.rxData := rfl
@[simp] theorem countCall_samples (s : State) : (countCall s).samples = s.samples := rfl
@[simp] theorem countCall_fb (s : State) : (countCall s).fb = s.fb := rfl
@[simp] theorem countCall_lines (s : State) : (countCall s).lines = s.lines := rfl
@[simp] theorem countCall_eng (s : State) : (countCall s).eng = s.eng := rfl
@[simp] theorem countCall_traceRev (s : State) : (countCall s).traceRev = s.traceRev := rfl
@[simp] theorem countCall_env (s : State) : (countCall s).env = ⟨s.env.calls + 1, s.env.draws + 1⟩ := rfl
@[simp] theorem countCall_host (s : State) : (countCall s).host = s.host := rfl
@[simp] theorem countCall_turns (s : State) : (countCall s).turns = s.turns := rfl

/-! ### smp -/

@[simp] theorem smp_par (s : State) : (smp s).par = s.par := rfl
@[simp] theorem smp_regs (s : State) : (smp s).regs = s.regs := rfl
@[simp] theorem smp_status (s : State) : (smp s).status = s.status := rfl
@[simp] theorem smp_rxData (s : State) : (smp s).rxData = s.rxData := rfl
@[simp] theorem smp_samples (s : State) : (smp s).samples = s.samples := rfl
@[simp] theorem smp_fb (s : State) : (smp s).fb = s.fb := rfl
@[simp] theorem smp_lines (s : State) : (smp s).lines = { s.lines with sampled := sdaLevel s } := rfl
@[simp] theorem smp_eng (s : State) : (smp s).eng = s.eng := rfl
@[simp] theorem smp_traceRev (s : State) : (smp s).traceRev = .smp (sdaLevel s) :: s.traceRev := rfl
@[simp] theorem smp_env (s : State) : (smp s).env = ⟨s.env.calls + 1, s.env.draws + 1⟩ := rfl
@[simp] theorem smp_host (s : State) : (smp s).host = s.host := rfl
@[simp] theorem smp_turns (s : State) : (smp s).turns = s.turns := rfl

/-! ### smpShift -/

@[simp] theorem smpShift_par (i : Nat) (s : State) : (smpShift i s).par = s.par := rfl
@[simp] theorem smpShift_regs (i : Nat) (s : State) : (smpShift i s).regs = s.regs := rfl
@[simp] theorem smpShift_status (i : Nat) (s : State) : (smpShift i s).status = s.status := rfl
@[simp] theorem smpShift_rxData (i : Nat) (s : State) : (smpShift i s).rxData = s.rxData := rfl
@[simp] theorem smpShift_samples (i : Nat) (s : State) : (smpShift i s).samples = s.samples := rfl
@[simp] theorem smpShift_fb (i : Nat) (s : State) : (smpShift i s).fb = s.fb := rfl
@[simp] theorem smpShift_lines (i : Nat) (s : State) : (smpShift i s).lines = { s.lines with sampled := sdaLevel s } := rfl
@[simp] theorem smpShift_eng (i : Nat) (s : State) : (smpShift i s).eng = { s.eng with shift := setBit s.eng.shift i (sdaLevel s) } := rfl
@[simp] theorem smpShift_traceRev (i : Nat) (s : State) : (smpShift i s).traceRev = .smp (sdaLevel s) :: s.traceRev := rfl
@[simp] theorem smpShift_env (i : Nat) (s : State) : (smpShift i s).env = ⟨s.env.calls + 1, s.env.draws + 1⟩ := rfl
@[simp] theorem smpShift_host (i : Nat) (s : State) : (smpShift i s).host = s.host := rfl
@[simp] theorem smpShift_turns (i : Nat) (s : State) : (smpShift i s).turns = s.turns := rfl

/-! ### cmdError -/

@[simp] theorem cmdError_par (c : ErrCode) (s : State) : (cmdError c s).par = s.par := rfl
@[simp] theorem cmdError_regs (c : ErrCode) (s : State) : (cmdError c s).regs = s.regs := rfl
@[simp] theorem cmdError_status (c : ErrCode) (s : State) : (cmdError c s).status = { s.status with err := c, nackCnt := 0 } := rfl
@[simp] theorem cmdError_rxData (c : ErrCode) (s : State) : (cmdError c s).rxData = s.rxData := rfl
@[simp] theorem cmdError_samples (c : ErrCode) (s : State) : (cmdError c s).samples = s.samples := rfl
@[simp] theorem cmdError_fb (c : ErrCode) (s : State) : (cmdError c s).fb = s.fb := rfl
@[simp] theorem cmdError_lines (c : ErrCode) (s : State) : (cmdError c s).lines = s.lines := rfl
@[simp] theorem cmdError_eng (c : ErrCode) (s : State) : (cmdError c s).eng = s.eng := rfl
@[simp] theorem cmdError_traceRev (c : ErrCode) (s : State) : (cmdError c s).traceRev = s.traceRev := rfl
@[simp] theorem cmdError_env (c : ErrCode) (s : State) : (cmdError c s).env = s.env := rfl
@[simp] theorem cmdError_host (c : ErrCode) (s : State) : (cmdError c s).host = s.host := rfl
@[simp] theorem cmdError_turns (c : ErrCode) (s : State) : (cmdError c s).turns = s.turns := rfl

/-! ### accept -/

@[simp] theorem accept_par (w : Word) (ms : List Micro) (p : Product) (ph : Phase) (s : State) : (accept w ms p ph s).par = s.par := rfl
@[simp] theorem accept_regs (w : Word) (ms : List Micro) (p : Product) (ph : Phase) (s : State) : (accept w ms p ph s).regs = s.regs := rfl
@[simp] theorem accept_status (w : Word) (ms : List Micro) (p : Product) (ph : Phase) (s : State) : (accept w ms p ph s).status = { s.status with busy := true } := rfl
@[simp] theorem accept_rxData (w : Word) (ms : List Micro) (p : Product) (ph : Phase) (s : State) : (accept w ms p ph s).rxData = s.rxData := rfl
@[simp] theorem accept_samples (w : Word) (ms : List Micro) (p : Product) (ph : Phase) (s : State) : (accept w ms p ph s).samples = s.samples := rfl
@[simp] theorem accept_fb (w : Word) (ms : List Micro) (p : Product) (ph : Phase) (s : State) : (accept w ms p ph s).fb = s.fb := rfl
@[simp] theorem accept_lines (w : Word) (ms : List Micro) (p : Product) (ph : Phase) (s : State) : (accept w ms p ph s).lines = s.lines := rfl
@[simp] theorem accept_eng (w : Word) (ms : List Micro) (p : Product) (ph : Phase) (s : State) : (accept w ms p ph s).eng = { Engine.idle with cmd := some w, pos := ⟨ms, p, false⟩, newphase := ph } := rfl
@[simp] theorem accept_traceRev (w : Word) (ms : List Micro) (p : Product) (ph : Phase) (s : State) : (accept w ms p ph s).traceRev = s.traceRev := rfl
@[simp] theorem accept_env (w : Word) (ms : List Micro) (p : Product) (ph : Phase) (s : State) : (accept w ms p ph s).env = s.env := rfl
@[simp] theorem accept_host (w : Word) (ms : List Micro) (p : Product) (ph : Phase) (s : State) : (accept w ms p ph s).host = s.host := rfl
@[simp] theorem accept_turns (w : Word) (ms : List Micro) (p : Product) (ph : Phase) (s : State) : (accept w ms p ph s).turns = s.turns := rfl

/-! ### abortNack -/

@[simp] theorem abortNack_par (s : State) : (abortNack s).par = s.par := rfl
@[simp] theorem abortNack_regs (s : State) : (abortNack s).regs = s.regs := rfl
@[simp] theorem abortNack_status (s : State) : (abortNack s).status = s.status := rfl
@[simp] theorem abortNack_rxData (s : State) : (abortNack s).rxData = s.rxData := rfl
@[simp] theorem abortNack_samples (s : State) : (abortNack s).samples = s.samples := rfl
@[simp] theorem abortNack_fb (s : State) : (abortNack s).fb = s.fb := rfl
@[simp] theorem abortNack_lines (s : State) : (abortNack s).lines = s.lines := rfl
@[simp] theorem abortNack_eng (s : State) : (abortNack s).eng = { s.eng with pos := ⟨pStop, s.eng.pos.product, true⟩, newphase := .idle } := rfl
@[simp] theorem abortNack_traceRev (s : State) : (abortNack s).traceRev = s.traceRev := rfl
@[simp] theorem abortNack_env (s : State) : (abortNack s).env = s.env := rfl
@[simp] theorem abortNack_host (s : State) : (abortNack s).host = s.host := rfl
@[simp] theorem abortNack_turns (s : State) : (abortNack s).turns = s.turns := rfl

/-! ### keepByte -/

@[simp] theorem keepByte_par (k : Fin 14) (s : State) : (keepByte k s).par = s.par := rfl
@[simp] theorem keepByte_regs (k : Fin 14) (s : State) : (keepByte k s).regs = s.regs := rfl
@[simp] theorem keepByte_status (k : Fin 14) (s : State) : (keepByte k s).status = s.status := rfl
@[simp] theorem keepByte_rxData (k : Fin 14) (s : State) : (keepByte k s).rxData = s.rxData := rfl
@[simp] theorem keepByte_samples (k : Fin 14) (s : State) : (keepByte k s).samples = s.samples := rfl
@[simp] theorem keepByte_fb (k : Fin 14) (s : State) : (keepByte k s).fb = s.fb := rfl
@[simp] theorem keepByte_lines (k : Fin 14) (s : State) : (keepByte k s).lines = s.lines := rfl
@[simp] theorem keepByte_eng (k : Fin 14) (s : State) : (keepByte k s).eng = { s.eng with buf := s.eng.buf.set k s.eng.shift } := rfl
@[simp] theorem keepByte_traceRev (k : Fin 14) (s : State) : (keepByte k s).traceRev = s.traceRev := rfl
@[simp] theorem keepByte_env (k : Fin 14) (s : State) : (keepByte k s).env = s.env := rfl
@[simp] theorem keepByte_host (k : Fin 14) (s : State) : (keepByte k s).host = s.host := rfl
@[simp] theorem keepByte_turns (k : Fin 14) (s : State) : (keepByte k s).turns = s.turns := rfl

/-! ### setTodo -/

@[simp] theorem setTodo_par (ms : List Micro) (s : State) : (setTodo ms s).par = s.par := rfl
@[simp] theorem setTodo_regs (ms : List Micro) (s : State) : (setTodo ms s).regs = s.regs := rfl
@[simp] theorem setTodo_status (ms : List Micro) (s : State) : (setTodo ms s).status = s.status := rfl
@[simp] theorem setTodo_rxData (ms : List Micro) (s : State) : (setTodo ms s).rxData = s.rxData := rfl
@[simp] theorem setTodo_samples (ms : List Micro) (s : State) : (setTodo ms s).samples = s.samples := rfl
@[simp] theorem setTodo_fb (ms : List Micro) (s : State) : (setTodo ms s).fb = s.fb := rfl
@[simp] theorem setTodo_lines (ms : List Micro) (s : State) : (setTodo ms s).lines = s.lines := rfl
@[simp] theorem setTodo_eng (ms : List Micro) (s : State) : (setTodo ms s).eng = { s.eng with pos := { s.eng.pos with todo := ms } } := rfl
@[simp] theorem setTodo_traceRev (ms : List Micro) (s : State) : (setTodo ms s).traceRev = s.traceRev := rfl
@[simp] theorem setTodo_env (ms : List Micro) (s : State) : (setTodo ms s).env = s.env := rfl
@[simp] theorem setTodo_host (ms : List Micro) (s : State) : (setTodo ms s).host = s.host := rfl
@[simp] theorem setTodo_turns (ms : List Micro) (s : State) : (setTodo ms s).turns = s.turns := rfl

/-! ### noteRead -/

@[simp] theorem noteRead_par (off : Nat) (v : Word) (s : State) : (noteRead off v s).par = s.par := rfl
@[simp] theorem noteRead_regs (off : Nat) (v : Word) (s : State) : (noteRead off v s).regs = s.regs := rfl
@[simp] theorem noteRead_status (off : Nat) (v : Word) (s : State) : (noteRead off v s).status = s.status := rfl
@[simp] theorem noteRead_rxData (off : Nat) (v : Word) (s : State) : (noteRead off v s).rxData = s.rxData := rfl
@[simp] theorem noteRead_samples (off : Nat) (v : Word) (s : State) : (noteRead off v s).samples = s.samples := rfl
@[simp] theorem noteRead_fb (off : Nat) (v : Word) (s : State) : (noteRead off v s).fb = s.fb := rfl
@[simp] theorem noteRead_lines (off : Nat) (v : Word) (s : State) : (noteRead off v s).lines = s.lines := rfl
@[simp] theorem noteRead_eng (off : Nat) (v : Word) (s : State) : (noteRead off v s).eng = s.eng := rfl
@[simp] theorem noteRead_traceRev (off : Nat) (v : Word) (s : State) : (noteRead off v s).traceRev = s.traceRev := rfl
@[simp] theorem noteRead_env (off : Nat) (v : Word) (s : State) : (noteRead off v s).env = s.env := rfl
@[simp] theorem noteRead_host (off : Nat) (v : Word) (s : State) : (noteRead off v s).host = { s.host with reads := (off, v) :: s.host.reads } := rfl
@[simp] theorem noteRead_turns (off : Nat) (v : Word) (s : State) : (noteRead off v s).turns = s.turns := rfl

/-! ### setProgram -/

@[simp] theorem setProgram_par (ops : List HostOp) (s : State) : (setProgram ops s).par = s.par := rfl
@[simp] theorem setProgram_regs (ops : List HostOp) (s : State) : (setProgram ops s).regs = s.regs := rfl
@[simp] theorem setProgram_status (ops : List HostOp) (s : State) : (setProgram ops s).status = s.status := rfl
@[simp] theorem setProgram_rxData (ops : List HostOp) (s : State) : (setProgram ops s).rxData = s.rxData := rfl
@[simp] theorem setProgram_samples (ops : List HostOp) (s : State) : (setProgram ops s).samples = s.samples := rfl
@[simp] theorem setProgram_fb (ops : List HostOp) (s : State) : (setProgram ops s).fb = s.fb := rfl
@[simp] theorem setProgram_lines (ops : List HostOp) (s : State) : (setProgram ops s).lines = s.lines := rfl
@[simp] theorem setProgram_eng (ops : List HostOp) (s : State) : (setProgram ops s).eng = s.eng := rfl
@[simp] theorem setProgram_traceRev (ops : List HostOp) (s : State) : (setProgram ops s).traceRev = s.traceRev := rfl
@[simp] theorem setProgram_env (ops : List HostOp) (s : State) : (setProgram ops s).env = s.env := rfl
@[simp] theorem setProgram_host (ops : List HostOp) (s : State) : (setProgram ops s).host = { s.host with program := ops } := rfl
@[simp] theorem setProgram_turns (ops : List HostOp) (s : State) : (setProgram ops s).turns = s.turns := rfl

/-! ### dropTurn -/

@[simp] theorem dropTurn_par (s : State) : (dropTurn s).par = s.par := rfl
@[simp] theorem dropTurn_regs (s : State) : (dropTurn s).regs = s.regs := rfl
@[simp] theorem dropTurn_status (s : State) : (dropTurn s).status = s.status := rfl
@[simp] theorem dropTurn_rxData (s : State) : (dropTurn s).rxData = s.rxData := rfl
@[simp] theorem dropTurn_samples (s : State) : (dropTurn s).samples = s.samples := rfl
@[simp] theorem dropTurn_fb (s : State) : (dropTurn s).fb = s.fb := rfl
@[simp] theorem dropTurn_lines (s : State) : (dropTurn s).lines = s.lines := rfl
@[simp] theorem dropTurn_eng (s : State) : (dropTurn s).eng = s.eng := rfl
@[simp] theorem dropTurn_traceRev (s : State) : (dropTurn s).traceRev = s.traceRev := rfl
@[simp] theorem dropTurn_env (s : State) : (dropTurn s).env = s.env := rfl
@[simp] theorem dropTurn_host (s : State) : (dropTurn s).host = s.host := rfl
@[simp] theorem dropTurn_turns (s : State) : (dropTurn s).turns = s.turns.tail := rfl

/-! ### placeCommand -/

@[simp] theorem placeCommand_par (w : Word) (s : State) : (placeCommand w s).par = s.par := rfl
@[simp] theorem placeCommand_regs (w : Word) (s : State) : (placeCommand w s).regs = s.regs := rfl
@[simp] theorem placeCommand_status (w : Word) (s : State) : (placeCommand w s).status = s.status := rfl
@[simp] theorem placeCommand_rxData (w : Word) (s : State) : (placeCommand w s).rxData = s.rxData := rfl
@[simp] theorem placeCommand_samples (w : Word) (s : State) : (placeCommand w s).samples = s.samples := rfl
@[simp] theorem placeCommand_fb (w : Word) (s : State) : (placeCommand w s).fb = s.fb := rfl
@[simp] theorem placeCommand_lines (w : Word) (s : State) : (placeCommand w s).lines = s.lines := rfl
@[simp] theorem placeCommand_eng (w : Word) (s : State) : (placeCommand w s).eng = s.eng := rfl
@[simp] theorem placeCommand_traceRev (w : Word) (s : State) : (placeCommand w s).traceRev = s.traceRev := rfl
@[simp] theorem placeCommand_env (w : Word) (s : State) : (placeCommand w s).env = s.env := rfl
@[simp] theorem placeCommand_host (w : Word) (s : State) : (placeCommand w s).host = { s.host with program := .write cmdOffset 4 w :: s.host.program } := rfl
@[simp] theorem placeCommand_turns (w : Word) (s : State) : (placeCommand w s).turns = .host :: s.turns := rfl

/-! ### withEvents -/

@[simp] theorem withEvents_par (es : List Event) (s : State) : (withEvents es s).par = s.par := rfl
@[simp] theorem withEvents_regs (es : List Event) (s : State) : (withEvents es s).regs = s.regs := rfl
@[simp] theorem withEvents_status (es : List Event) (s : State) : (withEvents es s).status = s.status := rfl
@[simp] theorem withEvents_rxData (es : List Event) (s : State) : (withEvents es s).rxData = s.rxData := rfl
@[simp] theorem withEvents_samples (es : List Event) (s : State) : (withEvents es s).samples = s.samples := rfl
@[simp] theorem withEvents_fb (es : List Event) (s : State) : (withEvents es s).fb = s.fb := rfl
@[simp] theorem withEvents_lines (es : List Event) (s : State) : (withEvents es s).lines = s.lines := rfl
@[simp] theorem withEvents_eng (es : List Event) (s : State) : (withEvents es s).eng = s.eng := rfl
@[simp] theorem withEvents_traceRev (es : List Event) (s : State) : (withEvents es s).traceRev = es.reverse ++ s.traceRev := rfl
@[simp] theorem withEvents_env (es : List Event) (s : State) : (withEvents es s).env = s.env := rfl
@[simp] theorem withEvents_host (es : List Event) (s : State) : (withEvents es s).host = s.host := rfl
@[simp] theorem withEvents_turns (es : List Event) (s : State) : (withEvents es s).turns = s.turns := rfl

/-! ### noteAckRaw, noteAckSeq, commit, resetInput -/

@[simp] theorem noteAckRaw_par (s : State) : (noteAckRaw s).par = s.par := rfl
@[simp] theorem noteAckRaw_regs (s : State) : (noteAckRaw s).regs = s.regs := rfl
@[simp] theorem noteAckRaw_status (s : State) : (noteAckRaw s).status = s.status := rfl
@[simp] theorem noteAckRaw_rxData (s : State) : (noteAckRaw s).rxData = s.rxData := rfl
@[simp] theorem noteAckRaw_samples (s : State) : (noteAckRaw s).samples = s.samples := rfl
@[simp] theorem noteAckRaw_fb (s : State) : (noteAckRaw s).fb = s.fb := rfl
@[simp] theorem noteAckRaw_lines (s : State) : (noteAckRaw s).lines = s.lines := rfl
@[simp] theorem noteAckRaw_traceRev (s : State) : (noteAckRaw s).traceRev = s.traceRev := rfl
@[simp] theorem noteAckRaw_env (s : State) : (noteAckRaw s).env = s.env := rfl
@[simp] theorem noteAckRaw_host (s : State) : (noteAckRaw s).host = s.host := rfl
@[simp] theorem noteAckRaw_turns (s : State) : (noteAckRaw s).turns = s.turns := rfl

@[simp] theorem noteAckSeq_par (s : State) : (noteAckSeq s).par = s.par := by
  unfold noteAckSeq; dsimp only; split <;> rfl
@[simp] theorem noteAckSeq_regs (s : State) : (noteAckSeq s).regs = s.regs := by
  unfold noteAckSeq; dsimp only; split <;> rfl
@[simp] theorem noteAckSeq_status (s : State) : (noteAckSeq s).status = s.status := by
  unfold noteAckSeq; dsimp only; split <;> rfl
@[simp] theorem noteAckSeq_rxData (s : State) : (noteAckSeq s).rxData = s.rxData := by
  unfold noteAckSeq; dsimp only; split <;> rfl
@[simp] theorem noteAckSeq_samples (s : State) : (noteAckSeq s).samples = s.samples := by
  unfold noteAckSeq; dsimp only; split <;> rfl
@[simp] theorem noteAckSeq_fb (s : State) : (noteAckSeq s).fb = s.fb := by
  unfold noteAckSeq; dsimp only; split <;> rfl
@[simp] theorem noteAckSeq_lines (s : State) : (noteAckSeq s).lines = s.lines := by
  unfold noteAckSeq; dsimp only; split <;> rfl
@[simp] theorem noteAckSeq_traceRev (s : State) : (noteAckSeq s).traceRev = s.traceRev := by
  unfold noteAckSeq; dsimp only; split <;> rfl
@[simp] theorem noteAckSeq_env (s : State) : (noteAckSeq s).env = s.env := by
  unfold noteAckSeq; dsimp only; split <;> rfl
@[simp] theorem noteAckSeq_host (s : State) : (noteAckSeq s).host = s.host := by
  unfold noteAckSeq; dsimp only; split <;> rfl
@[simp] theorem noteAckSeq_turns (s : State) : (noteAckSeq s).turns = s.turns := by
  unfold noteAckSeq; dsimp only; split <;> rfl

@[simp] theorem commit_par (s : State) : (commit s).par = s.par := rfl
@[simp] theorem commit_regs (s : State) : (commit s).regs = s.regs := rfl
@[simp] theorem commit_fb (s : State) : (commit s).fb = s.fb := rfl
@[simp] theorem commit_lines (s : State) : (commit s).lines = s.lines := rfl
@[simp] theorem commit_traceRev (s : State) : (commit s).traceRev = s.traceRev := rfl
@[simp] theorem commit_env (s : State) : (commit s).env = s.env := rfl
@[simp] theorem commit_host (s : State) : (commit s).host = s.host := rfl
@[simp] theorem commit_turns (s : State) : (commit s).turns = s.turns := rfl
@[simp] theorem commit_eng (s : State) : (commit s).eng = Engine.idle := rfl
@[simp] theorem commit_busy (s : State) : (commit s).status.busy = false := rfl
@[simp] theorem commit_phase (s : State) : (commit s).status.phase = s.eng.newphase := rfl
@[simp] theorem commit_err (s : State) : (commit s).status.err = committedErr s.eng.pos.aborted := rfl
@[simp] theorem commit_nackCnt (s : State) : (commit s).status.nackCnt = s.eng.nacks := rfl
@[simp] theorem commit_ack (s : State) :
    (commit s).status.ack = committedAck s.eng.pos.aborted s.eng.lastack s.status.ack := rfl
@[simp] theorem commit_sampleValid (s : State) :
    (commit s).status.sampleValid = committedValid s.eng.pos.product s.eng.pos.aborted s.status.sampleValid := rfl

@[simp] theorem resetInput_par (s : State) : (resetInput s).par = s.par := rfl
@[simp] theorem resetInput_host (s : State) : (resetInput s).host = s.host := rfl
@[simp] theorem resetInput_turns (s : State) : (resetInput s).turns = s.turns := rfl
@[simp] theorem resetInput_env (s : State) : (resetInput s).env = ⟨0, s.env.draws⟩ := rfl
@[simp] theorem resetInput_regs (s : State) : (resetInput s).regs = (State.resetWith s.par).regs := rfl
@[simp] theorem resetInput_status (s : State) : (resetInput s).status = (State.resetWith s.par).status := rfl
@[simp] theorem resetInput_rxData (s : State) : (resetInput s).rxData = 0 := rfl
@[simp] theorem resetInput_samples (s : State) : (resetInput s).samples = ⟨0, 0, 0, 0, 0, 0, 0⟩ := rfl
@[simp] theorem resetInput_fb (s : State) : (resetInput s).fb = [] := rfl
@[simp] theorem resetInput_lines (s : State) : (resetInput s).lines = ⟨true, true, true⟩ := rfl
@[simp] theorem resetInput_eng (s : State) : (resetInput s).eng = Engine.idle := rfl
@[simp] theorem resetInput_traceRev (s : State) : (resetInput s).traceRev = [] := rfl

/-! ### The trace in order -/

@[simp] theorem trace_emit (e : Event) (s : State) : (emit e s).trace = s.trace ++ [e] := by
  simp [State.trace]

@[simp] theorem trace_scl (v : Bit) (s : State) : (scl v s).trace = s.trace ++ [.scl v] := by
  simp [State.trace]

@[simp] theorem trace_sda (v : Bit) (s : State) : (sda v s).trace = s.trace ++ [.sda v] := by
  simp [State.trace]

@[simp] theorem trace_smp (s : State) : (smp s).trace = s.trace ++ [.smp (sdaLevel s)] := by
  simp [State.trace]

@[simp] theorem trace_withEvents (es : List Event) (s : State) : (withEvents es s).trace = s.trace ++ es := by
  simp [State.trace]

end Sys2Proof.Machine
end

