-- ==== Sys2Proof/Laws/Ops.lean ====
section
/-! SUPPORT. What the shared operations can do, said once: accepting and rejecting a command, one micro-step, an engine turn,
a host access, a turn, a step. -/

namespace Sys2Proof.Machine

open Host

/-! ### Accepting a command -/

/-- What a raw command's acceptance does (30 R312). -/
theorem acceptRaw_next {w ms p ph s t} (h : acceptRaw w ms p ph s = .next t) :
    (s.status.phase = .idle ∧ t = cmdError .seq s) ∨ (s.status.phase ≠ .idle ∧ t = accept w ms p ph s) := by
  unfold acceptRaw at h
  split at h <;> cases h
  · exact .inl ⟨‹_›, rfl⟩
  · exact .inr ⟨‹_›, rfl⟩

/-- What a sequencer command's acceptance does (30 R312). -/
theorem acceptSequencer_next {w ms p s t} (h : acceptSequencer w ms p s = .next t) :
    (s.status.phase ≠ .idle ∧ t = cmdError .seq s) ∨ (s.status.phase = .idle ∧ t = accept w ms p .idle s) := by
  unfold acceptSequencer at h
  split at h
  · cases h; exact .inl ⟨‹_›, rfl⟩
  · cases h; exact .inr ⟨Classical.not_not.1 ‹_›, rfl⟩

@[simp] theorem acceptRaw_of_phase {w ms p ph s} (h : s.status.phase ≠ .idle) :
    acceptRaw w ms p ph s = .next (accept w ms p ph s) := if_neg h

@[simp] theorem acceptSequencer_of_idle {w ms p s} (h : s.status.phase = .idle) :
    acceptSequencer w ms p s = .next (accept w ms p .idle s) := by simp [acceptSequencer, h]

/-- A raw command is rejected as out of sequence, or accepted. -/
theorem acceptRaw_cases (w : Word) (ms : List Micro) (p : Product) (ph : Phase) (s : State) :
    acceptRaw w ms p ph s = .next (cmdError .seq s) ∨ acceptRaw w ms p ph s = .next (accept w ms p ph s) := by
  unfold acceptRaw; split
  · exact .inl rfl
  · exact .inr rfl

/-- A sequencer command is rejected as out of sequence, or accepted. -/
theorem acceptSequencer_cases (w : Word) (ms : List Micro) (p : Product) (s : State) :
    acceptSequencer w ms p s = .next (cmdError .seq s) ∨ acceptSequencer w ms p s = .next (accept w ms p .idle s) := by
  unfold acceptSequencer; split
  · exact .inl rfl
  · exact .inr rfl

/-- Every command either is rejected or is accepted with its own word; none stops the machine. -/
theorem exec_cases (i : Instr) (s : State) :
    (∃ c, exec i s = .next (cmdError c s)) ∨ ∃ ms p ph, exec i s = .next (accept (encode i) ms p ph s) := by
  have raw : ∀ ms p ph, exec i s = acceptRaw (encode i) ms p ph s →
      (∃ c, exec i s = .next (cmdError c s)) ∨ ∃ ms p ph, exec i s = .next (accept (encode i) ms p ph s) := fun ms p ph h =>
    (acceptRaw_cases (encode i) ms p ph s).imp (fun h' => ⟨.seq, h.trans h'⟩) fun h' => ⟨ms, p, ph, h.trans h'⟩
  have seq : ∀ ms p, exec i s = acceptSequencer (encode i) ms p s →
      (∃ c, exec i s = .next (cmdError c s)) ∨ ∃ ms p ph, exec i s = .next (accept (encode i) ms p ph s) := fun ms p h =>
    (acceptSequencer_cases (encode i) ms p s).imp (fun h' => ⟨.seq, h.trans h'⟩) fun h' => ⟨ms, p, .idle, h.trans h'⟩
  cases i with
  | start => exact .inr ⟨_, _, _, rfl⟩
  | stop => exact raw _ _ _ rfl
  | writeByte byte => exact raw _ _ _ rfl
  | waitAck => exact raw _ _ _ rfl
  | readByte ack => exact raw _ _ _ rfl
  | snsWake => exact seq _ _ rfl
  | snsConfig => exact seq _ _ rfl
  | snsRead => exact seq _ _ rfl
  | dspInit => exact seq _ _ rfl
  | dspSetWindow cs ce ps pe => exact seq _ _ rfl
  | dspWriteFrame len =>
    by_cases h : s.status.phase = .idle ∧ frameInvalid len s.regs.chunk = true
    · exact .inl ⟨.inval, if_pos h⟩
    · exact seq _ _ (if_neg h)
  | dspPutchar byte => exact seq _ _ rfl
  | dspSetCursor page col => exact seq _ _ rfl

/-! ### Samples -/

/-- The low half of a sample register is the field it was extended from (10 R122). -/
@[simp] theorem extractLsb'_sampleWord (v : BitVec 16) : (sampleWord v).extractLsb' 0 16 = v := by
  apply BitVec.eq_of_getLsbD_eq
  intro i hi
  simp only [sampleWord, BitVec.getLsbD_extractLsb', BitVec.getLsbD_signExtend, Nat.zero_add, hi, show i < 32 by omega,
    decide_true, Bool.true_and, if_true]

/-- The raw value of a field of a decoded burst is that field (41 R506, R509). -/
@[simp] theorem rawField_decodeBurst (buf : Vector Byte 14) (i : Fin 7) : rawField (decodeBurst buf) i = burstField buf i := by
  match i with
  | 0 | 1 | 2 | 3 | 4 | 5 | 6 => exact extractLsb'_sampleWord _

/-! ### The engine -/

/-- What a micro-step can do. -/
theorem microStep_next {m s s'} (h : microStep m s = .next s') :
    (∃ v, m = .scl v ∧ s' = scl v s) ∨ (∃ v, m = .sda v ∧ s' = sda v s) ∨
    (∃ src i b, m = .sdaBit src i ∧ sourceByte s.fb src = .ok b ∧ s' = sda (bitOf b i) s) ∨
    (m = .smp ∧ s' = smp s) ∨ (∃ i, m = .smpShift i ∧ s' = smpShift i s) ∨
    (m = .ackRaw ∧ s' = noteAckRaw (scl false s)) ∨ (m = .ackSeq ∧ s' = noteAckSeq (scl false s)) ∨
    (∃ k, m = .keep k ∧ s' = keepByte k (scl false s)) := by
  cases m with
  | sdaBit src i =>
    simp only [microStep] at h
    split at h
    · cases h; exact .inr (.inr (.inl ⟨_, _, _, rfl, ‹_›, rfl⟩))
    · cases h
  | scl v => cases h; exact .inl ⟨_, rfl, rfl⟩
  | sda v => cases h; exact .inr (.inl ⟨_, rfl, rfl⟩)
  | smp => cases h; exact .inr (.inr (.inr (.inl ⟨rfl, rfl⟩)))
  | smpShift i => cases h; exact .inr (.inr (.inr (.inr (.inl ⟨_, rfl, rfl⟩))))
  | ackRaw => cases h; exact .inr (.inr (.inr (.inr (.inr (.inl ⟨rfl, rfl⟩)))))
  | ackSeq => cases h; exact .inr (.inr (.inr (.inr (.inr (.inr (.inl ⟨rfl, rfl⟩))))))
  | keep k => cases h; exact .inr (.inr (.inr (.inr (.inr (.inr (.inr ⟨_, rfl, rfl⟩))))))

/-- What an engine turn can do: nothing while BUSY = 0, the commit, or one micro-step. -/
theorem engineTurn_next {s s'} (h : engineTurn s = .next s') :
    (s.status.busy = false ∧ s' = s) ∨ (s.status.busy = true ∧ s.eng.pos.todo = [] ∧ s' = commit s) ∨
    ∃ m rest, s.status.busy = true ∧ s.eng.pos.todo = m :: rest ∧ microStep m (settled (setTodo rest s)) = .next s' := by
  unfold engineTurn at h
  split at h
  · split at h
    · cases h; exact .inr (.inl ⟨‹_›, ‹_›, rfl⟩)
    · exact .inr (.inr ⟨_, _, ‹_›, ‹_›, h⟩)
  · cases h; exact .inl ⟨by simpa using ‹¬s.status.busy = true›, rfl⟩

theorem engineTurn_commit {s} (hb : s.status.busy = true) (h : s.eng.pos.todo = []) : engineTurn s = .next (commit s) := by
  simp [engineTurn, hb, h]

theorem engineTurn_micro {s m rest} (hb : s.status.busy = true) (h : s.eng.pos.todo = m :: rest) :
    engineTurn s = microStep m (settled (setTodo rest s)) := by
  simp [engineTurn, hb, h]

theorem engineTurns_succ {n s s'} (h : engineTurn s = .next s') : engineTurns (n + 1) s = engineTurns n s' := by
  simp [engineTurns, h]

/-- Runs of the engine are put end to end. -/
theorem engineTurns_add {m s s'} (n : Nat) (h : engineTurns m s = .next s') : engineTurns (m + n) s = engineTurns n s' := by
  induction m generalizing s with
  | zero => cases h; simp
  | succ m ih =>
    rw [Nat.succ_add]
    simp only [engineTurns] at h ⊢
    split at h
    · rw [ih h]
    · cases h
    · cases h

/-! ### Host accesses -/

/-- A framebuffer word that an access reaches is one of the 256 (10 R123). -/
theorem accessReg_fbWord {off size j : Nat} (h : accessReg off size = .ok (.fbWord j)) : j < 256 := by
  unfold accessReg at h
  split at h
  · cases h
  · split at h
    · rename_i r hr
      cases h
      unfold regAt at hr
      grind (splits := 30)
    · cases h

/-- What a host write can do (20 R201): submit a command, or store into a read/write register. -/
theorem hostWrite_next {off size v s s'} (h : hostWrite off size v s = .next s') :
    s.status.busy = false ∧ ∃ r, accessReg off size = .ok r ∧ readOnly r = false ∧
      ((r = .cmd ∧ submit v s = .next s') ∨ (r ≠ .cmd ∧ s' = regWrite r v s)) := by
  unfold hostWrite at h
  split at h
  · cases h
  · rename_i r hr
    split at h
    · cases h
    · split at h
      · cases h
      · rename_i h1 h2
        refine ⟨by simpa using h2, r, hr, by simpa using h1, ?_⟩
        split at h
        · exact .inl ⟨‹_›, h⟩
        · cases h; exact .inr ⟨‹_›, rfl⟩

/-- What submitting a word can do (30 R312): reject it, or accept the command it decodes to. -/
theorem submit_cases (w : Word) (s : State) :
    (∃ c, submit w s = .next (cmdError c s)) ∨
    ∃ i ms p ph, decodeWord w = .ok i ∧ submit w s = .next (accept (encode i) ms p ph s) := by
  unfold submit
  split
  · rename_i i hi
    rcases exec_cases i s with ⟨c, hc⟩ | ⟨ms, p, ph, h⟩
    · exact .inl ⟨c, hc⟩
    · exact .inr ⟨i, ms, p, ph, hi, h⟩
  · exact .inl ⟨_, rfl⟩

/-- What the host's turn can do. -/
theorem hostTurn_next {s s'} (h : hostTurn s = .next s') :
    (s.host.program = [] ∧ s' = s) ∨
    (∃ off size rest v, s.host.program = .read off size :: rest ∧ hostRead off size s = .ok v ∧
      s' = noteRead off v (setProgram rest s)) ∨
    (∃ off size v rest, s.host.program = .write off size v :: rest ∧ hostWrite off size v (setProgram rest s) = .next s') ∨
    (∃ rest, s.host.program = .poll :: rest ∧
      (s' = noteRead statusOffset (statusWord s.status) s ∨
        s' = setProgram rest (noteRead statusOffset (statusWord s.status) s))) := by
  unfold hostTurn at h
  split at h
  · cases h; exact .inl ⟨‹_›, rfl⟩
  · split at h
    · cases h; exact .inr (.inl ⟨_, _, _, _, ‹_›, ‹_›, rfl⟩)
    · cases h
  · exact .inr (.inr (.inl ⟨_, _, _, _, ‹_›, h⟩))
  · refine .inr (.inr (.inr ⟨_, ‹_›, ?_⟩))
    dsimp only at h
    split at h <;> cases h
    · exact .inl rfl
    · exact .inr rfl

/-- What a step can do: a turn of the host, of the engine, or a reset. -/
theorem step_next {s s'} (h : step s = .next s') :
    (nextTurn s = .host ∧ hostTurn (dropTurn s) = .next s') ∨
    (nextTurn s = .engine ∧ engineTurn (dropTurn s) = .next s') ∨
    (nextTurn s = .reset ∧ s' = resetInput (dropTurn s)) := by
  unfold step takeTurn at h
  split at h
  · exact .inl ⟨‹_›, h⟩
  · exact .inr (.inl ⟨‹_›, h⟩)
  · cases h; exact .inr (.inr ⟨‹_›, rfl⟩)

end Sys2Proof.Machine
end

