-- ==== Sys2Proof/Laws/Lines.lean ====
section
/-! SUPPORT. The laws of `lineSafe`, `lastScl` and `lastSda`: how they go over procedures put end to end and over the
procedures of the primitives; and that a procedure which nothing can abort or stop runs to its commit. -/

namespace Sys2Proof.Machine

/-- A rest of a procedure that is safe from an unknown SDA is safe from any SDA. -/
theorem lineSafe_mono {ms : List Micro} {c : Bit} {d : Option Bit} (h : lineSafe ms c none = true) :
    lineSafe ms c d = true := by
  induction ms generalizing c d with
  | nil => rfl
  | cons m r ih =>
    cases m <;> simp only [lineSafe, Bool.and_eq_true] at h ⊢ <;>
      first
      | exact ih h
      | exact h
      | exact absurd h.1.2 (by decide)

/-- An SDA level that a rest of a procedure settles is settled whatever SDA was. -/
theorem lastSda_mono {ms : List Micro} {d : Option Bit} {x : Bit} (h : lastSda ms none = some x) : lastSda ms d = some x := by
  induction ms generalizing d with
  | nil => simp [lastSda] at h
  | cons m r ih =>
    cases m <;>
      first
      | exact ih h
      | exact h

theorem lineSafe_append (a b : List Micro) (c : Bit) (d : Option Bit) :
    lineSafe (a ++ b) c d = true ↔ lineSafe a c d = true ∧ lineSafe b (lastScl a c) (lastSda a d) = true := by
  induction a generalizing c d with
  | nil => simp [lineSafe, lastScl, lastSda]
  | cons m r ih =>
    cases m <;> simp only [List.cons_append, lineSafe, lastScl, lastSda, Bool.and_eq_true, ih, and_assoc]

theorem lastScl_append (a b : List Micro) (c : Bit) : lastScl (a ++ b) c = lastScl b (lastScl a c) := by
  induction a generalizing c with
  | nil => rfl
  | cons m r ih => cases m <;> simp only [List.cons_append, lastScl, ih]

theorem lastSda_append (a b : List Micro) (d : Option Bit) : lastSda (a ++ b) d = lastSda b (lastSda a d) := by
  induction a generalizing d with
  | nil => rfl
  | cons m r ih => cases m <;> simp only [List.cons_append, lastSda, ih]

/-- A written and acknowledged byte is safe from SCL low, and leaves SCL low and SDA released. -/
theorem ackedWrite_lines (src : ByteSrc) (d : Option Bit) :
    lineSafe (ackedWrite src) false d = true ∧ lastScl (ackedWrite src) false = false ∧
      lastSda (ackedWrite src) d = some true := ⟨rfl, rfl, rfl⟩

/-- So is a run of such bytes. -/
theorem ackedWrites_lines (l : List ByteSrc) (d : Option Bit) :
    lineSafe (l.flatMap ackedWrite) false d = true ∧ lastScl (l.flatMap ackedWrite) false = false := by
  induction l generalizing d with
  | nil => exact ⟨rfl, rfl⟩
  | cons a l ih =>
    simp only [List.flatMap_cons, lineSafe_append, lastScl_append, (ackedWrite_lines a d).1, (ackedWrite_lines a d).2.1,
      true_and]
    exact ih _

/-- A whole write transaction is safe from any lines, and leaves both released (40 R426). -/
theorem wrTxn_lines (a7 : BitVec 7) (l : List ByteSrc) (c : Bit) (d : Option Bit) :
    lineSafe (wrTxn a7 l) c d = true ∧ lastScl (wrTxn a7 l) c = true ∧ lastSda (wrTxn a7 l) d = some true := by
  have h1 := ackedWrites_lines l (some true)
  unfold wrTxn
  simp only [lineSafe_append, lastScl_append, lastSda_append]
  exact ⟨⟨⟨⟨rfl, rfl⟩, h1.1⟩, rfl⟩, rfl, rfl⟩

/-- Under continue-on-NACK, with every byte it sends known, a command runs to its commit, one turn a micro-step (40 R425,
R428). -/
theorem engineTurns_continue {s : State} (hb : s.status.busy = true) (ha : s.regs.abortOnNack = false)
    (hn : s.eng.pos.aborted = false)
    (hs : ∀ src i, Micro.sdaBit src i ∈ s.eng.pos.todo → ∃ b, sourceByte s.fb src = .ok b) :
    ∃ u, engineTurns (s.eng.pos.todo.length + 1) s = .next u ∧ u.status.busy = false ∧ u.status.err = .none := by
  generalize hm : s.eng.pos.todo = ms at hs
  induction ms generalizing s with
  | nil => exact ⟨commit s, by rw [engineTurns_succ (engineTurn_commit hb hm)]; rfl, rfl, by simp [commit, hn, committedErr]⟩
  | cons m rest ih =>
    have hgo : ∃ s', engineTurn s = .next s' ∧ s'.status = s.status ∧ s'.regs = s.regs ∧ s'.fb = s.fb ∧
        s'.eng.pos.todo = rest ∧ s'.eng.pos.aborted = false := by
      rw [engineTurn_micro hb hm]
      cases m with
      | sdaBit src i =>
        obtain ⟨b, hb'⟩ := hs src i List.mem_cons_self
        exact ⟨sda (bitOf b i) (settled (setTodo rest s)), by simp only [microStep, settled_fb, setTodo_fb, hb'], rfl, rfl, rfl, rfl,
          hn⟩
      | ackSeq =>
        refine ⟨_, rfl, ?_⟩
        simp [noteAckSeq, ha, hn, setTodo]
      | _ => exact ⟨_, rfl, rfl, rfl, rfl, rfl, hn⟩
    obtain ⟨s', h1, h2, h3, h4, h5, h6⟩ := hgo
    rw [List.length_cons, engineTurns_succ h1]
    exact ih (by rw [h2, hb]) (by rw [h3, ha]) h6 h5 (by rw [h4]; exact fun src i h => hs src i (List.mem_cons_of_mem _ h))

end Sys2Proof.Machine
end

