-- ==== Sys2Proof/Laws/Memory.lean ====
section
/-! SUPPORT. The laws of the framebuffer: what a read gives after a write, and that every operation keeps the canonical
form. -/

namespace Sys2Proof.Machine

@[simp] theorem Memory.read_nil (a : Nat) : Memory.read [] a = none := rfl

/-- A read of the byte just written gives the value written. -/
@[simp] theorem Memory.read_write_same (m : Memory) (a : Nat) (b : Byte) : (m.write a b).read a = some b := by
  induction m with
  | nil => simp [Memory.write, Memory.read]
  | cons c m ih =>
    obtain ⟨k, v⟩ := c
    simp only [Memory.write]
    split
    · simp [Memory.read]
    · split
      · simp [Memory.read]
      · simp only [Memory.read]
        rw [if_neg (by omega), ih]

/-- A write leaves every other byte alone. -/
theorem Memory.read_write_other (m : Memory) (a c : Nat) (b : Byte) (h : c ≠ a) : (m.write a b).read c = m.read c := by
  induction m with
  | nil => simp [Memory.write, Memory.read, Ne.symm h]
  | cons x m ih =>
    obtain ⟨k, v⟩ := x
    simp only [Memory.write]
    split
    · simp [Memory.read, Ne.symm h]
    · split
      · rename_i h1
        simp [Memory.read, Ne.symm h, ← h1]
      · simp only [Memory.read, ih]

/-- The keys of a write are the old keys and the one written. -/
theorem Memory.mem_write {m : Memory} {a : Nat} {b : Byte} {x : Host.Cell} (h : x ∈ m.write a b) : x = (a, b) ∨ x ∈ m := by
  induction m with
  | nil => simpa [Memory.write] using h
  | cons y m ih =>
    obtain ⟨k, v⟩ := y
    simp only [Memory.write] at h
    split at h
    · simpa using h
    · split at h
      · rcases List.mem_cons.1 h with h | h
        · exact .inl h
        · exact .inr (List.mem_cons_of_mem _ h)
      · rcases List.mem_cons.1 h with h | h
        · exact .inr (h ▸ List.mem_cons_self)
        · exact (ih h).imp id (List.mem_cons_of_mem _)

/-- A write inside the framebuffer keeps the canonical form. -/
theorem Memory.wf_write {m : Memory} {a : Nat} (b : Byte) (hm : m.wf) (ha : a < frameBytes) : (m.write a b).wf := by
  refine ⟨?_, fun c hc => (Memory.mem_write hc).elim (fun h => h ▸ ha) (hm.2 c)⟩
  have hp := hm.1
  clear hm ha
  induction m with
  | nil => simp [Memory.write]
  | cons x m ih =>
    obtain ⟨k, v⟩ := x
    have hk := List.pairwise_cons.1 hp
    simp only [Memory.write]
    split
    · rename_i h
      refine List.pairwise_cons.2 ⟨fun y hy => ?_, hp⟩
      rcases List.mem_cons.1 hy with rfl | hy
      · exact h
      · exact Nat.lt_trans h (hk.1 y hy)
    · split
      · rename_i h
        exact List.pairwise_cons.2 ⟨fun y hy => h ▸ hk.1 y hy, hk.2⟩
      · refine List.pairwise_cons.2 ⟨fun y hy => ?_, ih hk.2⟩
        rcases Memory.mem_write hy with rfl | hy
        · show k < a; omega
        · exact hk.1 y hy

/-- A host write of a framebuffer word keeps the canonical form. -/
theorem fbWriteWord_wf {m : Memory} {j : Nat} (v : Word) (hm : m.wf) (hj : j < 256) : (fbWriteWord m j v).wf := by
  unfold fbWriteWord
  have hb : 4 * j + 3 < frameBytes := by unfold frameBytes; omega
  exact Memory.wf_write _ (Memory.wf_write _ (Memory.wf_write _ (Memory.wf_write _ hm (by omega)) (by omega)) (by omega)) hb

/-- A host write of a framebuffer word leaves the bytes of other words alone. -/
theorem fbWriteWord_read_other (m : Memory) (j a : Nat) (v : Word) (h : a / 4 ≠ j) : (fbWriteWord m j v).read a = m.read a := by
  unfold fbWriteWord
  rw [Memory.read_write_other _ _ _ _ (by omega), Memory.read_write_other _ _ _ _ (by omega),
    Memory.read_write_other _ _ _ _ (by omega), Memory.read_write_other _ _ _ _ (by omega)]

/-- What `fbWord` answers: the little-endian word of the four bytes, all of them written. -/
theorem fbWord_ok_iff (m : Memory) (j : Nat) (v : Word) :
    fbWord m j = .ok v ↔ ∃ b0 b1 b2 b3, m.read (4 * j) = some b0 ∧ m.read (4 * j + 1) = some b1 ∧
      m.read (4 * j + 2) = some b2 ∧ m.read (4 * j + 3) = some b3 ∧ v = wordOfBytes b0 b1 b2 b3 := by
  unfold fbWord
  rcases m.read (4 * j) with _ | b0 <;> rcases m.read (4 * j + 1) with _ | b1 <;>
    rcases m.read (4 * j + 2) with _ | b2 <;> rcases m.read (4 * j + 3) with _ | b3 <;> simp [eq_comm]

/-- What `sourceByte` answers. -/
theorem sourceByte_ok_iff (m : Memory) (src : ByteSrc) (b : Byte) :
    sourceByte m src = .ok b ↔ src = .lit b ∨ ∃ j, src = .fb j ∧ m.read j = some b := by
  cases src with
  | lit c => simp [sourceByte]
  | fb j => simp only [sourceByte]; cases h : m.read j <;> simp [h, eq_comm]

end Sys2Proof.Machine
end

