-- ==== Sys2Proof/Laws/PerInstr.lean ====
section
/-! SUPPORT. Statements made once per command. -/

namespace Sys2Proof.Laws

/-- OP of a word whose top byte is `op` (30 R302). -/
theorem fieldOp_append (op : Byte) (x : BitVec 24) : fieldOp (op ++ x) = op := by
  apply BitVec.eq_of_getLsbD_eq
  intro i hi
  simp only [fieldOp, BitVec.getLsbD_extractLsb', hi, decide_true, Bool.true_and]
  exact (BitVec.getLsbD_append (x := op) (y := x) (i := 24 + i)).trans (by simp)

end Sys2Proof.Laws

/-- The word of a command has the opcode of the row `k` of the opcode map that has its mnemonic (30 R302, R305). -/
def Sys2Proof.Laws.OpcodeOfEncode.HasRow (i : Sys2Proof.Instr) (k : Nat) (mnemonic : String) : Prop :=
  (Sys2Proof.opcodeMap.map fun r => (r.mnemonic, r.op))[k]? = some (mnemonic, Sys2Proof.fieldOp (Sys2Proof.encode i))

/-- Each command's word carries the opcode the map lists for it (30 R305). -/
def Sys2Proof.Laws.OpcodeOfEncode.Statement (i : Sys2Proof.Instr) : Prop :=
  match i with
  | .start => Sys2Proof.Laws.OpcodeOfEncode.HasRow i 0 "START"
  | .stop => Sys2Proof.Laws.OpcodeOfEncode.HasRow i 1 "STOP"
  | .writeByte _ => Sys2Proof.Laws.OpcodeOfEncode.HasRow i 2 "WRITE_BYTE"
  | .waitAck => Sys2Proof.Laws.OpcodeOfEncode.HasRow i 3 "WAIT_ACK"
  | .readByte _ => Sys2Proof.Laws.OpcodeOfEncode.HasRow i 4 "READ_BYTE"
  | .snsWake => Sys2Proof.Laws.OpcodeOfEncode.HasRow i 5 "SNS_WAKE"
  | .snsConfig => Sys2Proof.Laws.OpcodeOfEncode.HasRow i 6 "SNS_CONFIG"
  | .snsRead => Sys2Proof.Laws.OpcodeOfEncode.HasRow i 7 "SNS_READ"
  | .dspInit => Sys2Proof.Laws.OpcodeOfEncode.HasRow i 8 "DSP_INIT"
  | .dspSetWindow _ _ _ _ => Sys2Proof.Laws.OpcodeOfEncode.HasRow i 9 "DSP_SET_WINDOW"
  | .dspWriteFrame _ => Sys2Proof.Laws.OpcodeOfEncode.HasRow i 10 "DSP_WRITE_FRAME"
  | .dspPutchar _ => Sys2Proof.Laws.OpcodeOfEncode.HasRow i 11 "DSP_PUTCHAR"
  | .dspSetCursor _ _ => Sys2Proof.Laws.OpcodeOfEncode.HasRow i 12 "DSP_SET_CURSOR"

/-- The row is the one whose opcode the word starts with. -/
theorem Sys2Proof.Laws.OpcodeOfEncode.hasRow_of {i : Sys2Proof.Instr} {k : Nat} {m : String} {op : Sys2Proof.Byte}
    {x : BitVec 24} (hw : Sys2Proof.encode i = op ++ x)
    (hr : (Sys2Proof.opcodeMap.map fun r => (r.mnemonic, r.op))[k]? = some (m, op)) :
    Sys2Proof.Laws.OpcodeOfEncode.HasRow i k m := by
  unfold Sys2Proof.Laws.OpcodeOfEncode.HasRow
  rw [hw, Sys2Proof.Laws.fieldOp_append, hr]

theorem Sys2Proof.Laws.OpcodeOfEncode.start :
    Sys2Proof.Laws.OpcodeOfEncode.Statement .start := Sys2Proof.Laws.OpcodeOfEncode.hasRow_of rfl rfl

theorem Sys2Proof.Laws.OpcodeOfEncode.stop :
    Sys2Proof.Laws.OpcodeOfEncode.Statement .stop := Sys2Proof.Laws.OpcodeOfEncode.hasRow_of rfl rfl

theorem Sys2Proof.Laws.OpcodeOfEncode.writeByte (byte : BitVec 8) :
    Sys2Proof.Laws.OpcodeOfEncode.Statement (.writeByte byte) := Sys2Proof.Laws.OpcodeOfEncode.hasRow_of rfl rfl

theorem Sys2Proof.Laws.OpcodeOfEncode.waitAck :
    Sys2Proof.Laws.OpcodeOfEncode.Statement .waitAck := Sys2Proof.Laws.OpcodeOfEncode.hasRow_of rfl rfl

theorem Sys2Proof.Laws.OpcodeOfEncode.readByte (ack : BitVec 1) :
    Sys2Proof.Laws.OpcodeOfEncode.Statement (.readByte ack) := Sys2Proof.Laws.OpcodeOfEncode.hasRow_of rfl rfl

theorem Sys2Proof.Laws.OpcodeOfEncode.snsWake :
    Sys2Proof.Laws.OpcodeOfEncode.Statement .snsWake := Sys2Proof.Laws.OpcodeOfEncode.hasRow_of rfl rfl

theorem Sys2Proof.Laws.OpcodeOfEncode.snsConfig :
    Sys2Proof.Laws.OpcodeOfEncode.Statement .snsConfig := Sys2Proof.Laws.OpcodeOfEncode.hasRow_of rfl rfl

theorem Sys2Proof.Laws.OpcodeOfEncode.snsRead :
    Sys2Proof.Laws.OpcodeOfEncode.Statement .snsRead := Sys2Proof.Laws.OpcodeOfEncode.hasRow_of rfl rfl

theorem Sys2Proof.Laws.OpcodeOfEncode.dspInit :
    Sys2Proof.Laws.OpcodeOfEncode.Statement .dspInit := Sys2Proof.Laws.OpcodeOfEncode.hasRow_of rfl rfl

theorem Sys2Proof.Laws.OpcodeOfEncode.dspSetWindow (cs ce : BitVec 7) (ps pe : BitVec 3) :
    Sys2Proof.Laws.OpcodeOfEncode.Statement (.dspSetWindow cs ce ps pe) := Sys2Proof.Laws.OpcodeOfEncode.hasRow_of rfl rfl

theorem Sys2Proof.Laws.OpcodeOfEncode.dspWriteFrame (len : BitVec 11) :
    Sys2Proof.Laws.OpcodeOfEncode.Statement (.dspWriteFrame len) := Sys2Proof.Laws.OpcodeOfEncode.hasRow_of rfl rfl

theorem Sys2Proof.Laws.OpcodeOfEncode.dspPutchar (byte : BitVec 8) :
    Sys2Proof.Laws.OpcodeOfEncode.Statement (.dspPutchar byte) := Sys2Proof.Laws.OpcodeOfEncode.hasRow_of rfl rfl

theorem Sys2Proof.Laws.OpcodeOfEncode.dspSetCursor (page : BitVec 3) (col : BitVec 7) :
    Sys2Proof.Laws.OpcodeOfEncode.Statement (.dspSetCursor page col) := Sys2Proof.Laws.OpcodeOfEncode.hasRow_of rfl rfl
end

