-- ==== Sys2Proof/Laws/Runs.lean ====
section
/-! SUPPORT. What the engine makes of each bus primitive at the head of a procedure: one equation per primitive, so that a run is
a chain of them. -/

namespace Sys2Proof.Machine

/-- `s` with the line state, the trace and the rest of the procedure after some line writes of the engine. -/
def ranTo (ls : Lines) (es : List Event) (rest : List Micro) (s : State) : State :=
  { s with
    lines := ls
    traceRev := es.reverse ++ s.traceRev
    eng := { s.eng with settle := s.regs.delay, pos := { s.eng.pos with todo := rest } } }

/-- `p_start` at the head of a procedure takes four engine turns (40 R406). -/
theorem run_pStart {s : State} {rest : List Micro} (hb : s.status.busy = true) (h : s.eng.pos.todo = pStart ++ rest) :
    engineTurns 4 s = .next (ranTo ⟨false, false, s.lines.sampled⟩ startEvents rest s) := by
  obtain ⟨par, regs, ⟨busy, _, _, _, _, _⟩, rx, sm, fb, ls, ⟨cmd, ⟨todo, pr, ab⟩, _, _, _, _, _, _⟩, tr, env, host, tn⟩ := s
  simp only at hb h
  subst hb h
  rfl

/-- `p_stop` at the head of a procedure takes three engine turns (40 R407). -/
theorem run_pStop {s : State} {rest : List Micro} (hb : s.status.busy = true) (h : s.eng.pos.todo = pStop ++ rest) :
    engineTurns 3 s = .next (ranTo ⟨true, true, s.lines.sampled⟩ stopEvents rest s) := by
  obtain ⟨par, regs, ⟨busy, _, _, _, _, _⟩, rx, sm, fb, ls, ⟨cmd, ⟨todo, pr, ab⟩, _, _, _, _, _, _⟩, tr, env, host, tn⟩ := s
  simp only at hb h
  subst hb h
  rfl

@[simp] theorem ranTo_ranTo (l1 l2 : Lines) (e1 e2 : List Event) (r1 r2 : List Micro) (s : State) :
    ranTo l2 e2 r2 (ranTo l1 e1 r1 s) = ranTo l2 (e1 ++ e2) r2 s := by
  simp [ranTo]

@[simp] theorem ranTo_busy (l : Lines) (es : List Event) (r : List Micro) (s : State) :
    (ranTo l es r s).status.busy = s.status.busy := rfl

@[simp] theorem ranTo_todo (l : Lines) (es : List Event) (r : List Micro) (s : State) :
    (ranTo l es r s).eng.pos.todo = r := rfl

@[simp] theorem ranTo_fb (l : Lines) (es : List Event) (r : List Micro) (s : State) : (ranTo l es r s).fb = s.fb := rfl

@[simp] theorem ranTo_lines (l : Lines) (es : List Event) (r : List Micro) (s : State) : (ranTo l es r s).lines = l := rfl

/-- One bit of `p_write` takes three engine turns. -/
theorem run_bit {s : State} {rest : List Micro} {src : ByteSrc} {b : Byte} {i : Nat} (hb : s.status.busy = true)
    (hs : sourceByte s.fb src = .ok b) (h : s.eng.pos.todo = .sdaBit src i :: .scl true :: .scl false :: rest) :
    engineTurns 3 s =
      .next (ranTo ⟨false, bitOf b i, s.lines.sampled⟩ [.sda (bitOf b i), .scl true, .scl false] rest s) := by
  have h1 : engineTurn s = .next (sda (bitOf b i) (settled (setTodo (.scl true :: .scl false :: rest) s))) := by
    rw [engineTurn_micro hb h]; simp [microStep, hs]
  rw [engineTurns_succ h1]
  obtain ⟨par, regs, ⟨busy, _, _, _, _, _⟩, rx, sm, fb, ls, ⟨cmd, ⟨todo, pr, ab⟩, _, _, _, _, _, _⟩, tr, env, host, tn⟩ := s
  simp only at hb
  subst hb
  rfl

/-- `p_write` at the head of a procedure takes 24 engine turns, once its byte is known (40 R408). -/
theorem run_pWrite {s : State} {rest : List Micro} {src : ByteSrc} {b : Byte} (hb : s.status.busy = true)
    (hs : sourceByte s.fb src = .ok b) (h : s.eng.pos.todo = pWrite src ++ rest) :
    engineTurns 24 s = .next (ranTo ⟨false, bitOf b 0, s.lines.sampled⟩ (writeEvents b) rest s) := by
  have bits : ∀ (is : List Nat) (i : Nat) (s : State), s.status.busy = true → sourceByte s.fb src = .ok b →
      s.eng.pos.todo = (i :: is).flatMap (fun i => [.sdaBit src i, .scl true, .scl false]) ++ rest →
      engineTurns (3 * (i :: is).length) s =
        .next (ranTo ⟨false, bitOf b ((i :: is).getLast (by simp)), s.lines.sampled⟩
          ((i :: is).flatMap fun i => [.sda (bitOf b i), .scl true, .scl false]) rest s) := by
    intro is
    induction is with
    | nil => intro i s hb hs h; simpa using run_bit hb hs (by simpa using h)
    | cons j js ih =>
      intro i s hb hs h
      have h3 := run_bit hb hs (rest := (j :: js).flatMap (fun i => [.sdaBit src i, .scl true, .scl false]) ++ rest)
        (by simpa using h)
      rw [show 3 * (i :: j :: js).length = 3 + 3 * (j :: js).length by simp; omega, engineTurns_add _ h3,
        ih j _ (by simpa using hb) (by simpa using hs) (by simp)]
      simp
  have := bits [6, 5, 4, 3, 2, 1, 0] 7 s hb hs (by simpa [pWrite, bitsMsbFirst] using h)
  simpa [writeEvents, bitsMsbFirst] using this

/-- The acknowledge of a `p_wait_ack` is the environment's answer. -/
theorem answer_zero (s : State) : answer s 0 = envSda s := rfl

/-- `p_wait_ack` of a sequencer command at the head of a procedure takes four engine turns; its last one does what `w_ack`
does with the answer (40 R409, R423). -/
theorem run_wAck {s : State} {rest : List Micro} (hb : s.status.busy = true)
    (h : s.eng.pos.todo = pWaitAck .ackSeq ++ rest) :
    engineTurns 4 s = .next (noteAckSeq (ranTo ⟨false, true, answer s 0⟩ (ackEvents (answer s 0)) rest
      { s with env := envAfter s 1 })) := by
  obtain ⟨par, regs, ⟨busy, _, _, _, _, _⟩, rx, sm, fb, ls, ⟨cmd, ⟨todo, pr, ab⟩, _, _, _, _, _, _⟩, tr, env, host, tn⟩ := s
  simp only at hb h
  subst hb h
  rfl

/-- `p_wait_ack` of a raw WAIT_ACK (40 R409, R415). -/
theorem run_rawAck {s : State} {rest : List Micro} (hb : s.status.busy = true)
    (h : s.eng.pos.todo = pWaitAck .ackRaw ++ rest) :
    engineTurns 4 s = .next (noteAckRaw (ranTo ⟨false, true, answer s 0⟩ (ackEvents (answer s 0)) rest
      { s with env := envAfter s 1 })) := by
  obtain ⟨par, regs, ⟨busy, _, _, _, _, _⟩, rx, sm, fb, ls, ⟨cmd, ⟨todo, pr, ab⟩, _, _, _, _, _, _⟩, tr, env, host, tn⟩ := s
  simp only at hb h
  subst hb h
  rfl

/-- `w_ack` that goes on: the answer was ACK, or the policy is continue-on-NACK (40 R423). -/
theorem noteAckSeq_goesOn {s : State} (h : s.lines.sampled = false ∨ s.regs.abortOnNack = false) :
    noteAckSeq s = { s with eng := { s.eng with
      lastack := some (!s.lines.sampled)
      nacks := if s.lines.sampled then sat8Succ s.eng.nacks else s.eng.nacks } } := by
  unfold noteAckSeq ackOfSample
  rcases h with h | h <;> cases hs : s.lines.sampled <;> simp_all

/-- `w_ack` that aborts: a NACK under abort-on-NACK (40 R423, R424). -/
theorem noteAckSeq_aborts {s : State} (h : s.lines.sampled = true) (ha : s.regs.abortOnNack = true) :
    noteAckSeq s = { s with eng := { s.eng with
      lastack := some false
      nacks := sat8Succ s.eng.nacks
      newphase := .idle
      pos := ⟨pStop, s.eng.pos.product, true⟩ } } := by
  unfold noteAckSeq ackOfSample
  simp [h, ha, abortNack]

/-! ### Reading a byte -/

/-- Bit `j` of a byte after `setBit`. -/
theorem getLsbD_setBit (b : Byte) (i j : Nat) (v : Bit) (hj : j < 8) :
    (setBit b i v).getLsbD j = if j = i then v else b.getLsbD j := by
  unfold setBit
  cases v <;> by_cases h : j = i <;> simp [h, hj]
  · intro _; omega
  · exact .inr (h ▸ hj)
  · intro _ _; omega

/-- Bit `i` of a byte received most significant bit first. -/
theorem getLsbD_byteOfAnswers (a : Nat → Bit) (first i : Nat) (hi : i < 8) :
    (byteOfAnswers a first).getLsbD i = a (first + (7 - i)) := by
  have : i = 0 ∨ i = 1 ∨ i = 2 ∨ i = 3 ∨ i = 4 ∨ i = 5 ∨ i = 6 ∨ i = 7 := by omega
  simp only [byteOfAnswers, List.range, List.range.loop, List.foldl]
  rcases this with rfl | rfl | rfl | rfl | rfl | rfl | rfl | rfl <;> simp [bit1]

/-- The byte that `p_read` builds up in ENG.shift, whatever was there before. -/
theorem shift_eq_byteOfAnswers (old : Byte) (a : Nat → Bit) :
    setBit (setBit (setBit (setBit (setBit (setBit (setBit (setBit old 7 (a 0)) 6 (a 1)) 5 (a 2)) 4 (a 3)) 3 (a 4)) 2 (a 5)) 1
      (a 6)) 0 (a 7) = byteOfAnswers a 0 := by
  apply BitVec.eq_of_getLsbD_eq
  intro i hi
  rw [getLsbD_byteOfAnswers _ _ _ hi]
  have : i = 0 ∨ i = 1 ∨ i = 2 ∨ i = 3 ∨ i = 4 ∨ i = 5 ∨ i = 6 ∨ i = 7 := by omega
  rcases this with rfl | rfl | rfl | rfl | rfl | rfl | rfl | rfl <;>
    simp (disch := omega) only [getLsbD_setBit] <;> simp

/-- `p_read` at the head of a procedure takes 28 engine turns (40 R410). -/
theorem run_pRead {s : State} {rest : List Micro} {k : Bit} (hb : s.status.busy = true)
    (h : s.eng.pos.todo = pRead k (.scl false) ++ rest) :
    engineTurns 28 s = .next (ranTo ⟨false, !k, answer s 7⟩ (readEvents (answer s) 0 k) rest
      { s with env := envAfter s 8, eng := { s.eng with shift := byteOfAnswers (answer s) 0 } }) := by
  rw [← shift_eq_byteOfAnswers s.eng.shift]
  obtain ⟨par, regs, ⟨busy, _, _, _, _, _⟩, rx, sm, fb, ls, ⟨cmd, ⟨todo, pr, ab⟩, _, _, _, _, _, _⟩, tr, env, host, tn⟩ := s
  simp only at hb h
  subst hb h
  rfl

/-- `p_read` of SNS_READ at the head of a procedure: as `run_pRead`, and the byte is kept in ENG.buf (41 R505). -/
theorem run_pRead_keep {s : State} {rest : List Micro} {k : Bit} {i : Fin 14} (hb : s.status.busy = true)
    (h : s.eng.pos.todo = pRead k (.keep i) ++ rest) :
    engineTurns 28 s = .next (ranTo ⟨false, !k, answer s 7⟩ (readEvents (answer s) 0 k) rest
      { s with
        env := envAfter s 8
        eng := { s.eng with
          shift := byteOfAnswers (answer s) 0
          buf := s.eng.buf.set i (byteOfAnswers (answer s) 0) } }) := by
  rw [← shift_eq_byteOfAnswers s.eng.shift]
  obtain ⟨par, regs, ⟨busy, _, _, _, _, _⟩, rx, sm, fb, ls, ⟨cmd, ⟨todo, pr, ab⟩, _, _, _, _, _, _⟩, tr, env, host, tn⟩ := s
  simp only at hb h
  subst hb h
  rfl

end Sys2Proof.Machine
end

