-- ==== Sys2Proof/Tests/Slice0.lean ====
section
/-! SUPPORT. Tests on fixed values, from the vectors of spec/95 and from hand calculation from the rules; the smoke test of the
assembler's checks; and, for each obligation that has hypotheses, a witness that meets them. -/

namespace Sys2Proof.Tests

open Sys2Proof Sys2Proof.Machine

/-! ### The device of the tests -/

/-- The reference INIT_SEQ (42 R605). -/
def refInitSeq : List Byte :=
  [0xAE, 0xD5, 0x80, 0xA8, 0x3F, 0xD3, 0x00, 0x40, 0x8D, 0x14, 0x20, 0x00, 0xA1, 0xC8, 0xDA, 0x12, 0x81, 0xCF, 0xD9, 0xF1,
    0xDB, 0x40, 0xA4, 0xA6, 0xAF]

/-- Some reference glyphs (42 R611), then a stand-in for every printable code the spec gives no glyph of. -/
def refFont : List (Byte × List Byte) :=
  [(0x20, [0x00, 0x00, 0x00, 0x00, 0x00]), (0x25, [0x23, 0x13, 0x08, 0x64, 0x62]), (0x30, [0x3E, 0x51, 0x49, 0x45, 0x3E]),
    (0xB0, [0x00, 0x06, 0x09, 0x09, 0x06])]
    ++ (List.range 95).map fun k => (BitVec.ofNat 8 (0x20 + k), [0x7F, 0x41, 0x41, 0x41, 0x7F])

/-- The reference parameters of 95 section 0, with a fake script. -/
def refParams (script : List Bit) : Params where
  base := 0
  fClk := 0
  delayReset := 7
  backend := .fake
  fakeScript := script
  sensorAddrReset := 0x68
  displayAddrReset := 0x3C
  regPwrMgmt := 0x6B
  regDataFirst := 0x3B
  regSmplrtDiv := 0x19
  regConfig := 0x1A
  regGyroConfig := 0x1B
  regAccelConfig := 0x1C
  initSeq := refInitSeq
  opColAddr := 0x21
  opPageAddr := 0x22
  chunkReset := 32
  gw := .five
  font := refFont
  degreeCode := 0xB0

/-- The reference device after reset. -/
def dev (script : List Bit) : State := State.resetWith (refParams script)

/-- A device at rest in a phase (10 R127). -/
def inPhase (ph : Phase) (script : List Bit) : State :=
  { dev script with
    status := { (dev script).status with phase := ph }
    lines := ⟨ph == .idle, ph == .idle, true⟩ }

/-- A device in the middle of a command: `todo` is left of its procedure. -/
def running (todo : List Micro) (script : List Bit) : State :=
  { accept (encode .waitAck) todo .none .transfer (dev script) with lines := ⟨false, false, true⟩ }

/-- The state after an outcome. -/
def nextOf (o : Host.Outcome State Fault Refusal) : Option State :=
  match o with
  | .next s => some s
  | .fault _ | .refused _ => none

/-- The bytes a procedure sends that are known at acceptance, in order. -/
def literalBytes (ms : List Micro) : List Byte :=
  ms.filterMap fun m => match m with
    | .sdaBit (.lit b) 7 => some b
    | _ => none

/-- The bytes a command's procedure sends, in order, and its number of micro-steps. -/
def accepted (i : Instr) (s : State) : Option (List Byte × Nat) :=
  (nextOf (exec i s)).map fun t => (literalBytes t.eng.pos.todo, t.eng.pos.todo.length)

/-- The device after reset but for CHUNK. -/
def withChunk (c : BitVec 11) : State := { dev [] with regs := { (dev []).regs with chunk := c } }

/-- A framebuffer with every byte written. -/
def fullFb : Memory := (List.range 1024).map fun a => (a, 0x5A)

/-- A device with framebuffer `m` and chunk size `c`, under continue-on-NACK. -/
def withFrame (c : BitVec 11) (m : Memory) : State :=
  { dev [] with fb := m, regs := { (dev []).regs with abortOnNack := false, chunk := c } }

/-- A device with every framebuffer byte written. -/
def filled : State := withFrame 1024 fullFb

/-- The same with the smallest chunk size. -/
def filledBytewise : State := withFrame 1 fullFb

/-! ### The assembler's checks (30 R309) -/

theorem smoke_wrb : (AsmLine.wrb 256).wf = false ∧ assemble (.wrb 256) = none ∧ assemble (.wrb 255) = some (.writeByte 255) := by
  decide
theorem smoke_dspWin_cs : (AsmLine.dspWin 128 0 0 0).wf = false := by decide
theorem smoke_dspWin_ce : (AsmLine.dspWin 0 128 0 0).wf = false := by decide
theorem smoke_dspWin_ps : (AsmLine.dspWin 0 0 8 0).wf = false := by decide
theorem smoke_dspWin_pe : (AsmLine.dspWin 0 0 0 8).wf = false := by decide
theorem smoke_dspFrame : (AsmLine.dspFrame 2048).wf = false := by decide
theorem smoke_dspPutc : (AsmLine.dspPutc 256).wf = false := by decide
theorem smoke_dspCur_page : (AsmLine.dspCur 8 0).wf = false := by decide
theorem smoke_dspCur_col : (AsmLine.dspCur 0 128).wf = false := by decide
theorem smoke_wellFormed : (AsmLine.dspWin 127 127 7 7).wf = true ∧ assemble (.dspCur 7 127) = some (.dspSetCursor 7 127) := by
  decide

/-! ### Encoding: 95 V-E1, V-E2 -/

/-- What a word decodes to. -/
def decodesTo (w : Word) (i : Instr) : Bool :=
  match decodeWord w with
  | .ok j => j == i
  | .error _ => false

/-- The kind of illegal word it is. -/
def illegalBy (w : Word) (k : DecodeRefusal) : Bool :=
  match decodeWord w with
  | .ok _ => false
  | .error e => e == k

theorem test_decode_start : decodesTo 0x01000000 .start = true := by decide
theorem test_decode_stop : decodesTo 0x02000000 .stop = true := by decide
theorem test_decode_wrb : decodesTo 0x030000A5 (.writeByte 0xA5) = true := by decide
theorem test_decode_wack : decodesTo 0x04000000 .waitAck = true := by decide
theorem test_decode_rdb_ack : decodesTo 0x05000001 (.readByte 1) = true := by decide
theorem test_decode_rdb_nack : decodesTo 0x05000000 (.readByte 0) = true := by decide
theorem test_decode_wake : decodesTo 0x10000000 .snsWake = true := by decide
theorem test_decode_cfg : decodesTo 0x11000000 .snsConfig = true := by decide
theorem test_decode_read : decodesTo 0x12000000 .snsRead = true := by decide
theorem test_decode_init : decodesTo 0x20000000 .dspInit = true := by decide
theorem test_decode_win : decodesTo 0x21707F00 (.dspSetWindow 0 127 0 7) = true := by decide
theorem test_decode_win2 : decodesTo 0x21326405 (.dspSetWindow 5 100 2 3) = true := by decide
theorem test_decode_frame : decodesTo 0x22000400 (.dspWriteFrame 1024) = true := by decide
theorem test_decode_putc : decodesTo 0x23000030 (.dspPutchar 0x30) = true := by decide
theorem test_decode_cur : decodesTo 0x24000205 (.dspSetCursor 2 5) = true := by decide
theorem test_decode_cur2 : decodesTo 0x2400077F (.dspSetCursor 7 127) = true := by decide
theorem test_encode_win : encode (.dspSetWindow 5 100 2 3) = 0x21326405 := by decide
theorem test_encode_cur : encode (.dspSetCursor 7 127) = 0x2400077F := by decide
theorem test_illegal_op6 : illegalBy 0x06000000 .unknownOp = true := by decide
theorem test_illegal_zero : illegalBy 0x00000000 .unknownOp = true := by decide
theorem test_illegal_start : illegalBy 0x01000001 .mustBeZeroBit = true := by decide
theorem test_illegal_rdb : illegalBy 0x05000002 .mustBeZeroBit = true := by decide
theorem test_illegal_win : illegalBy 0x21000080 .mustBeZeroBit = true := by decide
theorem test_illegal_cur : illegalBy 0x24000800 .mustBeZeroBit = true := by decide

/-! ### Commands: one step each (95 V-E2, V-B1, V-S2, V-D1 to V-D4) -/

/-- STATUS after an outcome. -/
def statusAfter (o : Host.Outcome State Fault Refusal) : Option Word := (nextOf o).map fun s => statusWord s.status

theorem test_start_accepted : accepted .start (dev []) = some ([], 4) := by decide
theorem test_stop_in_idle : statusAfter (exec .stop (dev [])) = some 0x00000030 := by decide
theorem test_stop_accepted : accepted .stop (inPhase .addressing []) = some ([], 3) := by decide
theorem test_wrb_in_idle : statusAfter (exec (.writeByte 0x55) (dev [])) = some 0x00000030 := by decide
theorem test_wrb_accepted : accepted (.writeByte 0xA5) (inPhase .addressing []) = some ([0xA5], 24) := by decide
theorem test_wack_accepted : accepted .waitAck (inPhase .transfer []) = some ([], 4) := by decide
theorem test_rdb_accepted : accepted (.readByte 1) (inPhase .transfer []) = some ([], 28) := by decide
theorem test_wake_bytes : accepted .snsWake (dev []) = some ([0xD0, 0x6B, 0x00], 91) := by decide
theorem test_wake_in_addressing : statusAfter (exec .snsWake (inPhase .addressing [])) = some 0x00000034 := by decide
theorem test_cfg_bytes :
    accepted .snsConfig { dev [] with regs := { (dev []).regs with snsCfg := 0x00000307 } } =
      some ([0xD0, 0x19, 0x07, 0xD0, 0x1A, 0x03, 0xD0, 0x1B, 0x00, 0xD0, 0x1C, 0x00], 364) := by decide +kernel
theorem test_read_bytes : accepted .snsRead (dev []) = some ([0xD0, 0x3B, 0xD1], 487) := by decide +kernel
theorem test_init_length : (accepted .dspInit (dev [])).map (·.2) = some 2275 := by decide +kernel
theorem test_win_bytes :
    accepted (.dspSetWindow 0 127 0 7) (dev []) =
      some ([0x78, 0x00, 0x21, 0x78, 0x00, 0x00, 0x78, 0x00, 0x7F, 0x78, 0x00, 0x22, 0x78, 0x00, 0x00, 0x78, 0x00, 0x07],
        546) := by decide +kernel
theorem test_frame_wrong_length : statusAfter (exec (.dspWriteFrame 512) (dev [])) = some 0x00000040 := by decide
theorem test_frame_in_addressing : statusAfter (exec (.dspWriteFrame 0) (inPhase .addressing [])) = some 0x00000034 := by
  decide
theorem test_putc_bytes :
    accepted (.dspPutchar 0x30) (dev []) = some ([0x78, 0x40, 0x3E, 0x51, 0x49, 0x45, 0x3E, 0x00], 231) := by decide +kernel
theorem test_putc_blank :
    accepted (.dspPutchar 0xC1) (dev []) = some ([0x78, 0x40, 0x00, 0x00, 0x00, 0x00, 0x00, 0x00], 231) := by decide +kernel
theorem test_cur_bytes :
    accepted (.dspSetCursor 2 5) (dev []) = some ([0x78, 0x00, 0xB2, 0x78, 0x00, 0x05, 0x78, 0x00, 0x10], 273) := by
  decide +kernel
theorem test_cur_bytes_high :
    accepted (.dspSetCursor 7 127) (dev []) = some ([0x78, 0x00, 0xB7, 0x78, 0x00, 0x0F, 0x78, 0x00, 0x17], 273) := by
  decide +kernel

/-! ### The engine, the commit, the host, reset -/

/-- 40 R402: a sample under the fake script reads the script's bit, and keeps it in SDA_SAMPLED. -/
theorem test_sample : (smp (dev [false])).lines.sampled = false ∧ (smp (dev [false])).trace = [.smp false] := by decide

/-- 40 R423, R424: a NACK under abort-on-NACK leaves a STOP to do, and the command is aborted. -/
theorem test_abort :
    (noteAckSeq (running [.scl true] [])).eng.pos.todo = pStop ∧ (noteAckSeq (running [.scl true] [])).eng.nacks = 1 := by
  decide

/-- 41 R506, R507 on the dump of 95 E5. -/
theorem test_commit_samples :
    decodeBurst #v[0x04, 0xD2, 0xFB, 0x2E, 0x00, 0x00, 0x13, 0x88, 0x00, 0x0A, 0xFF, 0xF6, 0x00, 0x00] =
      ⟨0x000004D2, 0xFFFFFB2E, 0x00000000, 0x00001388, 0x0000000A, 0xFFFFFFF6, 0x00000000⟩ := by decide

/-- 95 V-S1 corners. -/
theorem test_sample_corners :
    sampleWord (v16 0x7F 0xFF) = 0x00007FFF ∧ sampleWord (v16 0x80 0x00) = 0xFFFF8000 ∧ sampleWord (v16 0xFF 0xFF) = 0xFFFFFFFF := by
  decide

/-- 95 V-S4. -/
theorem test_records :
    recordA ⟨0x000004D2, 0xFFFFFB2E, 0x00000000, 0x00001388, 0x0000000A, 0xFFFFFFF6, 0x00000000⟩ =
        [0xD2, 0x04, 0x2E, 0xFB, 0x00, 0x00] ∧
      recordB ⟨0x000004D2, 0xFFFFFB2E, 0x00000000, 0x00001388, 0x0000000A, 0xFFFFFFF6, 0x00000000⟩ =
        [0xD2, 0x04, 0x2E, 0xFB, 0x00, 0x00, 0x88, 0x13, 0x0A, 0x00, 0xF6, 0xFF, 0x00, 0x00] ∧
      readRecord 4 (recordA ⟨0, 0, 0, 0, 0, 0, 0⟩) = none ∧ readRecord 13 (recordB ⟨0, 0, 0, 0, 0, 0, 0⟩) = none := by decide

/-- 95 V-S3. -/
theorem test_scaled :
    accelScaled 1234 = 121014061 / 163840000 ∧ gyroScaled 10 = 10 / 131 ∧ tempScaled 5000 = 87101 / 1700 ∧
      accelScaled 0x8000 = -196133 / 10000 := by decide +kernel

/-- 95 V-S3 on the sample of 95 E5: each field has the scale of its kind. -/
theorem test_scaled_fields :
    let s : Samples := ⟨0x000004D2, 0xFFFFFB2E, 0x00000000, 0x00001388, 0x0000000A, 0xFFFFFFF6, 0x00000000⟩
    scaledField s 1 = -121014061 / 163840000 ∧ scaledField s 3 = 87101 / 1700 ∧ scaledField s 5 = -10 / 131 := by
  decide +kernel

/-- The value a host read gives. -/
def valueOf (e : Except Fault Word) : Option Word :=
  match e with
  | .ok v => some v
  | .error _ => none

/-- 95 V-M1: reads after reset. -/
theorem test_reset_reads :
    [0x008, 0x000, 0x014, 0x018, 0x01C, 0x024, 0x00C, 0x004].map (fun off => valueOf (hostRead off 4 (dev []))) =
      [some 0, some 1, some 7, some 0x68, some 0x3C, some 0x20, some 0, some 7] := by decide

/-- 95 V-M1: reserved bits of a write are ignored. -/
theorem test_reserved_bits :
    (nextOf (hostWrite 0x000 4 0xFFFFFFFF (dev []))).bind (fun s => valueOf (hostRead 0x000 4 s)) = some 1 ∧
      (nextOf (hostWrite 0x024 4 0xFFFFFFFF (dev []))).bind (fun s => valueOf (hostRead 0x024 4 s)) = some 0x7FF := by decide

/-- 95 V-M1: the bytes of a framebuffer word. -/
theorem test_fb_word :
    (nextOf (hostWrite 0x400 4 0x44332211 (dev []))).map (·.fb) = some [(0, 0x11), (1, 0x22), (2, 0x33), (3, 0x44)] := by decide

/-- The fault of a host write. -/
def faultOf (o : Host.Outcome State Fault Refusal) : Option Fault :=
  match o with
  | .fault f => some f
  | .next _ | .refused _ => none

/-- 95 V-M1: the four causes of a BusError. -/
theorem test_bus_errors :
    [faultOf (hostWrite 0x008 2 0 (dev [])), faultOf (hostWrite 0x028 4 0 (dev [])), faultOf (hostWrite 0x008 4 0 (dev [])),
      faultOf (hostWrite 0x000 4 0 (running [] []))] =
      [some (.busError .sizeOrAlignment 0x008), some (.busError .unmapped 0x028), some (.busError .readOnly 0x008),
        some (.busError .busy 0x000)] := by decide

/-- 30 R312, 20 R201: the step on a placed word is the CMD write of it. -/
theorem test_step_places : (nextOf (step ((dev []).withFetchWord 32 0x01000000))).map (·.eng.cmd) = some (some 0x01000000) := by
  decide

/-- 70 R803: a reset in the middle of a command. -/
theorem test_reset_mid_command :
    (resetInput (running pStop [])).status.busy = false ∧ (resetInput (running pStop [])).lines = ⟨true, true, true⟩ := by decide

/-- 70 R814: the expansions of 30 R310 meet the duties of a raw transaction; a written byte with no WAIT_ACK does not. -/
theorem test_raw_duties :
    rawTransactionOk (wregCommands 0x68 0x6B 0x00) = true ∧ rawTransactionOk (rregCommands 0x68 0x75) = true ∧
      rawTransactionOk [.start, .writeByte 0xD0, .stop] = false := by decide

/-- 95 P3: the host issues STOP after the NACKed WAIT_ACK; going on with a byte does not count as that. -/
theorem test_stops_at_nack :
    stopsAtNack [(.start, false), (.writeByte 0xD0, false), (.waitAck, true), (.writeByte 0x6B, true), (.waitAck, false),
        (.stop, false)] = true ∧
      stopsAtNack [(.start, false), (.writeByte 0xD0, false), (.waitAck, false), (.writeByte 0x6B, false)] = false := by decide

/-- 40 R405: a START, a bit and a STOP read off the lines. -/
theorem test_bus_items :
    busItems true true none (startEvents ++ [.sda true, .scl true, .scl false] ++ stopEvents) = [.start, .bit true, .stop] := by
  decide

/-- 30 R310: `dsp.puts "10"` is two commands, each with its poll. -/
theorem test_puts : putsOps [0x31, 0x30] =
    [.write 0x00C 4 0x23000031, .poll, .write 0x00C 4 0x23000030, .poll] := by decide

/-- 60 R719: a display write of a wrong length never reaches the block. -/
theorem test_display_write : displayWrite [] = none := by decide

/-- 42 R601: pixel (1, 9) is bit 1 of FB[129]. -/
theorem test_pixel : pixel [(129, 0x02)] 1 9 = some true ∧ pixel [(129, 0x02)] 1 8 = some false ∧ pixel [] 1 9 = none := by decide

/-! ### Witnesses: the hypotheses of each obligation that has some are met -/

/-- A running device is one the invariant allows. -/
def midAck : State := { running [.smp, .ackRaw] [false] with lines := ⟨true, true, true⟩ }

theorem read_of_mem : ∀ (l : List Nat) (a : Nat), a ∈ l → (Memory.read (l.map fun k => (k, (0x5A : Byte))) a).isSome = true
  | k :: l, a, h => by
    by_cases hk : k = a
    · simp [Memory.read, hk]
    · simpa [Memory.read, hk] using read_of_mem l a ((List.mem_cons.1 h).resolve_left (Ne.symm hk))

theorem fullFb_written : frameWritten fullFb := by
  intro a ha
  unfold fullFb
  exact read_of_mem _ a (List.mem_range.2 ha)

theorem withFrame_fb (c : BitVec 11) (m : Memory) : (withFrame c m).fb = m := rfl

theorem filledBytewise_written : frameWritten filledBytewise.fb := by
  rw [filledBytewise, withFrame_fb]
  exact fullFb_written

theorem filled_written : frameWritten filled.fb := by
  rw [filled, withFrame_fb]
  exact fullFb_written

theorem witness_EncodeOfDecode : decodeWord 0x21326405 = .ok (.dspSetWindow 5 100 2 3) := by rfl

/-- BUSY = 0, and both kinds of illegal word: 0x00000000 and 0xFFFFFFFF have no opcode, 0x05000002 breaks format R. -/
theorem witness_IllegalWordIsRejected :
    (∀ r ∈ opcodeMap, (0x00000000 : Word) &&& r.mask ≠ r.pattern) ∧ (∀ r ∈ opcodeMap, (0xFFFFFFFF : Word) &&& r.mask ≠ r.pattern) ∧
      (∀ r ∈ opcodeMap, (0x05000002 : Word) &&& r.mask ≠ r.pattern) ∧ (dev []).status.busy = false := by decide

theorem witness_StepRunsTheDecodedCommand :
    (let s := { dev [] with host := ⟨[.write cmdOffset 4 0x01000000, .poll], []⟩ }
     nextTurn s = .host ∧ s.host.program = .write cmdOffset 4 0x01000000 :: [.poll] ∧ s.status.busy = false ∧
       decodeWord 0x01000000 = .ok .start) ∧
      (dev []).status.busy = false ∧ decodeTableWord 32 0x24000205 = some (.dspSetCursor 2 5) := by
  exact ⟨⟨rfl, rfl, rfl, rfl⟩, rfl, rfl⟩

theorem witness_StepIsTheTurnOfTheNextAgent :
    ({ dev [] with turns := [.engine] }).turns = .engine :: [] ∧ ({ dev [] with turns := [.host] }).turns = .host :: [] ∧
      ({ dev [] with turns := [.reset] }).turns = .reset :: [] ∧
      ((running [] []).turns = [] ∧ (running [] []).status.busy = true) ∧
      (dev []).turns = [] ∧ (dev []).status.busy = false := by decide

/-- BUSY = 0, and each check of the acceptance: both kinds of illegal word; a raw row in IDLE; a sequencer row outside IDLE; a frame of 1023 and
of 1025 bytes, with CHUNK = 0 and with CHUNK = 1025; and, accepted, CHUNK = 1 and CHUNK = 1024. -/
theorem witness_AcceptanceFollowsTheChecks :
    (dev []).status.busy = false ∧ illegalBy 0x00000000 .unknownOp = true ∧ illegalBy 0x24000800 .mustBeZeroBit = true ∧
      (∃ r ∈ opcodeMap, (0x02000000 : Word) &&& r.mask = r.pattern ∧ r.cls = .raw ∧ r.op ≠ 0x01 ∧ (dev []).status.phase = .idle) ∧
      (∃ r ∈ opcodeMap, (0x22000000 : Word) &&& r.mask = r.pattern ∧ r.cls = .sequencer ∧
        (inPhase .transfer []).status.phase ≠ .idle) ∧
      fieldLen 0x220003FF ≠ 1024 ∧ fieldLen 0x22000401 ≠ 1024 ∧
      (∃ r ∈ opcodeMap, (0x22000400 : Word) &&& r.mask = r.pattern ∧ r.op = 0x22 ∧ fieldLen 0x22000400 = 1024) ∧
      (withChunk 0).regs.chunk = 0 ∧ 1024 < (withChunk 1025).regs.chunk.toNat ∧
      ((withChunk 1).regs.chunk ≠ 0 ∧ ¬1024 < (withChunk 1).regs.chunk.toNat) ∧
      ((withChunk 1024).regs.chunk ≠ 0 ∧ ¬1024 < (withChunk 1024).regs.chunk.toNat) := by decide

theorem witness_CommandsOutOfSequenceAreRejected :
    (dev []).status.phase = .idle ∧ (inPhase .addressing []).status.phase ≠ .idle ∧ Instr.snsWake ≠ .start ∧
      Instr.snsWake ≠ .stop ∧ Instr.snsWake ≠ .waitAck ∧ (∀ b, Instr.snsWake ≠ .writeByte b) ∧ ∀ k, Instr.snsWake ≠ .readByte k :=
  ⟨by decide, by decide, by simp, by simp, by simp, by simp, by simp⟩

/-- Each cause at the ends of its ranges of offsets. -/
theorem witness_BusErrorsInOrder :
    ([faultOf (hostWrite 0x000 2 0 (dev [])), faultOf (hostWrite 0x002 4 0 (dev []))] =
        [some (.busError .sizeOrAlignment 0x000), some (.busError .sizeOrAlignment 0x002)]) ∧
      (∀ off ∈ [0x028, 0x03C, 0x05C, 0x3FC, 0x800], faultOf (hostWrite off 4 0 (dev [])) = some (.busError .unmapped off)) ∧
      (∀ off ∈ [0x000, 0x024, 0x040, 0x058], (valueOf (hostRead off 4 (running [] []))).isSome = true) ∧
      (∀ off ∈ [0x400, 0x7FC], hostRead off 4 (running [] []) = .error (.unwrittenFb (off - 0x400))) ∧
      (∀ off ∈ [0x008, 0x010, 0x014, 0x040, 0x058], faultOf (hostWrite off 4 0 (dev [])) = some (.busError .readOnly off)) ∧
      ∀ off ∈ [0x000, 0x004, 0x00C, 0x018, 0x024, 0x400, 0x7FC],
        faultOf (hostWrite off 4 0 (running [] [])) = some (.busError .busy off) ∧
          (nextOf (hostWrite off 4 0 (dev []))).isSome = true := by
  refine ⟨by decide, by decide, by decide, ?_, by decide, by decide +kernel⟩
  intro off h
  simp only [List.mem_cons, List.not_mem_nil, or_false] at h
  rcases h with rfl | rfl <;> rfl

theorem witness_WritesAreRefusedWhileBusy :
    (running pStop []).status.busy = true ∧ nextTurn (running pStop []) ≠ .reset ∧
      (∃ u, step (running pStop []) = .next u) ∧ 0x024 % 4 = 0 ∧ 0x040 % 4 = 0 ∧ 0x058 % 4 = 0 ∧ 255 < 256 :=
  ⟨rfl, by decide, ⟨_, rfl⟩, by decide, by decide, by decide, by decide⟩

theorem witness_HostReadsHaveNoSideEffects :
    (let s := { running pStop [] with host := ⟨[.read 0x014 4], []⟩ }
     s.host.program = .read 0x014 4 :: [] ∧ readsOnly (.read 0x014 4) = true ∧ ∃ u, hostTurn s = .next u) ∧
      (let s := { dev [] with host := ⟨[.poll], []⟩ }
       s.host.program = .poll :: [] ∧ readsOnly .poll = true ∧ ∃ u, hostTurn s = .next u) ∧
      0x024 ≠ cmdOffset ∧ ∃ u, hostWrite 0x024 4 1 (dev []) = .next u :=
  ⟨⟨rfl, rfl, _, rfl⟩, ⟨rfl, rfl, _, rfl⟩, by decide, _, rfl⟩

theorem witness_LinesRegisterIsLive :
    (running [.scl true] []).eng.pos.todo = .scl true :: (running [.scl true] []).eng.pos.todo.tail ∧
      (running [.scl true] []).status.busy = true := by decide

theorem witness_RegisterWriteThenRead : (dev []).status.busy = false := by decide

theorem witness_FramebufferWordWriteThenRead : 255 < 256 ∧ (dev []).status.busy = false := by decide

theorem witness_UnwrittenFramebufferReadFaults :
    255 < 256 ∧ (dev []).fb.read (4 * 255 + 3) = none ∧ ∃ v, hostRead (0x400 + 4 * 255) 4 filled = .ok v := by
  refine ⟨by decide, rfl, ?_⟩
  have h : ∀ k, k < 4 → ∃ b, filled.fb.read (4 * 255 + k) = some b := fun k hk =>
    Option.isSome_iff_exists.1 (filled_written _ (by unfold frameBytes; omega))
  obtain ⟨b0, h0⟩ := h 0 (by omega)
  obtain ⟨b1, h1⟩ := h 1 (by omega)
  obtain ⟨b2, h2⟩ := h 2 (by omega)
  obtain ⟨b3, h3⟩ := h 3 (by omega)
  exact ⟨_, (fbWord_ok_iff filled.fb 255 _).2 ⟨b0, b1, b2, b3, h0, h1, h2, h3, rfl⟩⟩

theorem witness_StopRuns : (inPhase .addressing []).status.phase ≠ .idle := by decide
theorem witness_WriteByteRuns : (inPhase .addressing []).status.phase ≠ .idle := by decide
theorem witness_WaitAckRuns : (inPhase .transfer []).status.phase ≠ .idle := by decide
theorem witness_ReadByteRuns : (inPhase .transfer []).status.phase ≠ .idle := by decide
theorem witness_SnsWakeRuns : (dev []).status.phase = .idle := by decide
theorem witness_SnsConfigRuns : (dev []).status.phase = .idle := by decide

/-- Under each policy: continue-on-NACK with no device, abort-on-NACK with a device that acknowledges. -/
theorem witness_SnsReadCompletes :
    (filled.status.phase = .idle ∧ filled.regs.abortOnNack = false) ∧
      (let s := dev [false, false, false]
       s.status.phase = .idle ∧ s.regs.abortOnNack = true ∧ answer s 0 = false ∧ answer s 1 = false ∧ answer s 2 = false) := by
  decide

/-- A NACK at the first, the second and the third ack-wait. -/
theorem witness_SnsReadAborts :
    ((dev []).status.phase = .idle ∧ (dev []).regs.abortOnNack = true) ∧ answer (dev [true]) 0 = true ∧
      (answer (dev [false, true]) 0 = false ∧ answer (dev [false, true]) 1 = true) ∧
      (answer (dev [false, false, true]) 0 = false ∧ answer (dev [false, false, true]) 1 = false ∧
        answer (dev [false, false, true]) 2 = true) := by decide

theorem witness_DspInitRuns : (dev []).status.phase = .idle ∧ (dev []).par.initSeq ≠ [] := by decide
theorem witness_DspSetWindowRuns : (dev []).status.phase = .idle := by decide
theorem witness_DspSetCursorRuns : (dev []).status.phase = .idle := by decide

/-- A code inside FONT and one outside. -/
theorem witness_DspPutcharRuns :
    (dev []).status.phase = .idle ∧ fontAt (dev []).par 0x30 = some [0x3E, 0x51, 0x49, 0x45, 0x3E] ∧
      fontAt (dev []).par 0xC1 = none := by decide +kernel

/-- The chunk sizes 1 and 1024, the ends of the range. -/
theorem witness_DspWriteFrameRuns :
    filled.status.phase = .idle ∧ filled.regs.chunk.toNat = 1024 ∧ frameWritten filled.fb ∧
      (filledBytewise.status.phase = .idle ∧ filledBytewise.regs.chunk.toNat = 1 ∧ frameWritten filledBytewise.fb) :=
  ⟨rfl, rfl, filled_written, rfl, rfl, filledBytewise_written⟩

theorem witness_ChunksPartitionTheFrame :
    frameChunks 1024 = [List.range 1024] ∧ (frameChunks 1000).length = 2 := by decide +kernel

theorem filled_accepts : exec (.dspWriteFrame 1024) filled =
    .next (accept (encode (.dspWriteFrame 1024)) (frameProcedure filled) .none .idle filled) := by rfl

/-- A frame that is accepted and ends with ERR = NONE: the filled device under continue-on-NACK; and a wrong length. -/
theorem witness_FrameIsSentWhole :
    (∃ t u n, filled.status.busy = false ∧ exec (.dspWriteFrame 1024) filled = .next t ∧ t.status.busy = true ∧
      engineTurns n t = .next u ∧ u.status.busy = false ∧ u.status.err = .none) ∧
      ∃ t u, (dev []).status.busy = false ∧ (1023 : BitVec 11) ≠ 1024 ∧ exec (.dspWriteFrame 1023) (dev []) = .next t ∧
        engineTurns 1 t = .next u := by
  refine ⟨?_, _, _, rfl, by decide, rfl, rfl⟩
  obtain ⟨u, h1, h2, h3⟩ := engineTurns_continue
    (s := accept (encode (.dspWriteFrame 1024)) (frameProcedure filled) .none .idle filled) rfl rfl rfl (by
      intro src i h
      have hsrc : ∀ bytes : List ByteSrc, Micro.sdaBit src i ∈ wrTxn filled.regs.dspAddr bytes → (∃ b, src = .lit b) ∨ src ∈ bytes := by
        intro bytes h
        simp [wrTxn, pStart, pStop, ackedWrite, pWrite, pWaitAck, bitsMsbFirst] at h
        grind
      obtain ⟨c, hc, h⟩ := List.mem_flatMap.1 h
      rcases hsrc _ h with ⟨b, rfl⟩ | h
      · exact ⟨b, rfl⟩
      · rcases List.mem_cons.1 h with rfl | h
        · exact ⟨_, rfl⟩
        · obtain ⟨j, hj, rfl⟩ := List.mem_map.1 h
          have hj' : j < 1024 := by
            obtain ⟨k, _, rfl⟩ := List.mem_map.1 hc
            simp only [chunkIndices, List.mem_range', frameBytes] at hj
            obtain ⟨x, hx, rfl⟩ := hj
            omega
          obtain ⟨b, hb⟩ := Option.isSome_iff_exists.1 (filled_written j hj')
          exact ⟨b, by simp only [sourceByte, accept]; rw [hb]⟩)
  exact ⟨_, u, _, rfl, filled_accepts, rfl, h1, h2, h3⟩

/-- A wrong length, chunk size 0 and chunk size 1025. -/
theorem witness_FrameOfWrongLengthIsRejected :
    (dev []).status.phase = .idle ∧ (1023 : BitVec 11) ≠ 1024 ∧ (1025 : BitVec 11) ≠ 1024 ∧
      ((withChunk 0).status.phase = .idle ∧ (withChunk 0).regs.chunk.toNat = 0) ∧
      ((withChunk 1025).status.phase = .idle ∧ 1024 < (withChunk 1025).regs.chunk.toNat) := by decide

/-- A run that completes, one that completes under abort-on-NACK with no NACK, and one that a NACK ends. -/
theorem witness_TransactionsEndAtTheFirstNack :
    (carryAll false (fun _ => true) 0 [[1, 2], [3]]).2 = false ∧ (carryAll true (fun _ => false) 0 [[1, 2], [3]]).2 = false ∧
      carryAll true (fun k => k == 1) 0 [[1, 2], [3]] = ([[(1, false), (2, true)]], true) := by decide

theorem witness_ListenerReadsTheRawCommands :
    LinesAtRest (inPhase .transfer []) ∧ (inPhase .transfer []).status.phase ≠ .idle := ⟨rfl, by decide⟩

theorem witness_PrimitiveStepCounts : isSample .ackSeq = false ∧ isSample (.scl false) = false := by decide

theorem refFont_ok : fontOk (refParams []) := by
  refine ⟨by decide +kernel, by decide +kernel, by decide +kernel⟩

/-- A conforming device (42 R605, R611; 93). -/
theorem refParams_conform : Conforming (refParams []) := by
  refine ⟨by unfold initSeqOk; decide, refFont_ok, by decide, by decide⟩

theorem witness_CommandStepCounts :
    (∃ t, (dev []).status.busy = false ∧ fontOk (dev []).par ∧ exec (.dspPutchar 0x30) (dev []) = .next t ∧ t.status.busy = true) ∧
      (running pStop []).status.busy = true ∧ (running pStop []).eng.pos.todo ≠ [] ∧ ∃ u, engineTurn (running pStop []) = .next u :=
  ⟨⟨_, rfl, refFont_ok, rfl, rfl⟩, rfl, by decide, _, rfl⟩

theorem witness_EngineTurnFrame : ∃ u, engineTurn (running pStop []) = .next u ∧ u.status.busy = true := ⟨_, rfl, rfl⟩

theorem witness_CommandFrame :
    ∃ t u, (dev []).status.busy = false ∧ exec .start (dev []) = .next t ∧ engineTurns 5 t = .next u ∧
      (∀ k, Instr.start ≠ .readByte k) ∧ Instr.start ≠ .snsRead := ⟨_, _, rfl, rfl, rfl, by simp, by simp⟩

theorem witness_ParametersNeverChange : ∃ u, step (running pStop []) = .next u := ⟨_, rfl⟩

theorem witness_TraceOnlyGrows : ∃ u, step (running pStop []) = .next u ∧ nextTurn (running pStop []) ≠ .reset :=
  ⟨_, rfl, by decide⟩

theorem midAck_inv : MachineInv midAck := by
  refine ⟨⟨List.Pairwise.nil, by decide⟩, rfl, ?_⟩
  exact ⟨rfl, rfl⟩

/-- A running device that the invariant allows, at its sample; and the device after reset. -/
theorem witness_EveryStepKeepsTheInvariant :
    (∃ u, MachineInv midAck ∧ step midAck = .next u) ∧ ∃ u, step (dev []) = .next u := ⟨⟨_, midAck_inv, rfl⟩, _, rfl⟩

/-- After reset, and after a START command has run. -/
theorem witness_LinesAtRestWheneverNotBusy :
    (∃ u, Host.Core.run Sys2Proof.core 0 { State.resetWith (refParams []) with host := ⟨[], []⟩, turns := [] } = .next u ∧
      u.status.busy = false ∧ u.status.phase = .idle) ∧
      ∃ u, Host.Core.run Sys2Proof.core 6
          { State.resetWith (refParams []) with host := ⟨[.write 0x00C 4 0x01000000], []⟩, turns := [] } = .next u ∧
        u.status.busy = false ∧ u.status.phase = .addressing := ⟨⟨_, rfl, rfl, rfl⟩, _, rfl, rfl, rfl⟩

theorem witness_SamplesAreTakenOnReleasedLines :
    ∃ u, MachineInv midAck ∧ step midAck = .next u ∧ u.trace = midAck.trace ++ [.smp false] :=
  ⟨_, midAck_inv, rfl, by decide⟩

/-- A START, and a frame on a written framebuffer. -/
theorem witness_EveryAcceptedCommandCommits :
    (∃ t, (dev []).status.busy = false ∧ exec .start (dev []) = .next t ∧ t.status.busy = true ∧
      ((∃ len, Instr.start = .dspWriteFrame len) → frameWritten (dev []).fb)) ∧
      ∃ t, filled.status.busy = false ∧ exec (.dspWriteFrame 1024) filled = .next t ∧ t.status.busy = true ∧
        ((∃ len, Instr.dspWriteFrame 1024 = .dspWriteFrame len) → frameWritten filled.fb) :=
  ⟨⟨_, rfl, rfl, rfl, fun h => by simp at h⟩, _, rfl, filled_accepts, rfl, fun _ => filled_written⟩

theorem witness_HostReadsNeverDisturbTheDevice :
    let s := { running pStop [] with host := ⟨[.read 0x014 4, .poll], []⟩ }
    let ts : List Turn := [.host, .engine, .host]
    (∀ t ∈ ts, t ≠ .reset) ∧ (∀ op ∈ s.host.program, readsOnly op = true) ∧
      ∃ u, Host.Core.run Sys2Proof.core ts.length { s with turns := ts } = .next u := ⟨by decide, by decide, _, rfl⟩

theorem witness_PollingHostNeverMeetsBusy :
    let s := { dev [] with host := ⟨cmdOps .start ++ cmdOps .stop, []⟩ }
    polledProgram s.status.busy s.host.program = true ∧ ∃ u, step s = .next u := ⟨by decide, _, rfl⟩

theorem witness_ResetInputEndsTheCommand :
    ({ running pStop [false] with turns := [.reset] }).turns = .reset :: [] ∧
      ({ running pStop [false] with turns := [.reset] }).par.backend = .fake := by decide

/-- A script that still has a bit, and one that is exhausted. -/
theorem witness_FakeBackendAnswersItsScript :
    (dev [false]).par.backend = .fake ∧ (dev [false]).lines.sda = true ∧
      (dev [false]).env.calls < (dev [false]).par.fakeScript.length ∧ (dev []).par.fakeScript.length ≤ (dev []).env.calls := by
  decide

/-- A write, a read that is answered, one that is not, and a poll of a busy and of an idle block. -/
theorem witness_StepMakesTheHostsNextAccess :
    (let s := { dev [] with host := ⟨[.write 0x024 4 1], []⟩ }
     nextTurn s = .host ∧ s.host.program = .write 0x024 4 1 :: []) ∧
      (let s := { dev [] with host := ⟨[.read 0x014 4], []⟩ }
       nextTurn s = .host ∧ s.host.program = .read 0x014 4 :: [] ∧ ∃ v, hostRead 0x014 4 s = .ok v) ∧
      (let s := { dev [] with host := ⟨[.read 0x028 4], []⟩ }
       nextTurn s = .host ∧ s.host.program = .read 0x028 4 :: [] ∧ hostRead 0x028 4 s = .error (.busError .unmapped 0x028)) ∧
      (let s := { running pStop [] with host := ⟨[.poll], []⟩, turns := [.host] }
       nextTurn s = .host ∧ s.host.program = .poll :: [] ∧ s.status.busy = true) ∧
      (let s := { dev [] with host := ⟨[.poll], []⟩ }
       nextTurn s = .host ∧ s.host.program = .poll :: [] ∧ s.status.busy = false) :=
  ⟨⟨rfl, rfl⟩, ⟨rfl, rfl, _, rfl⟩, ⟨rfl, rfl, rfl⟩, ⟨rfl, rfl, rfl⟩, rfl, rfl, rfl⟩

end Sys2Proof.Tests
end

/-! PROOFS of the statements on the scope of the model (00 R5, R10, R11): whose turn a step is, the saturating NACK counter, and
what a listener reads off a write transaction. -/

namespace Sys2Proof.Machine

/-! ### The agent that moves next -/

theorem nextTurn_listed {s : State} {t : Turn} {ts : List Turn} (h : s.turns = t :: ts) : nextTurn s = t := by
  simp [nextTurn, h]

theorem nextTurn_busy {s : State} (h : s.turns = []) (hb : s.status.busy = true) : nextTurn s = .engine := by
  simp [nextTurn, h, hb]

theorem nextTurn_notBusy {s : State} (h : s.turns = []) (hb : s.status.busy = false) : nextTurn s = .host := by
  simp [nextTurn, h, hb]

theorem dropTurn_listed {s : State} {t : Turn} {ts : List Turn} (h : s.turns = t :: ts) :
    dropTurn s = { s with turns := ts } := by
  simp [dropTurn, h]

/-- When no turn is listed there is none to use up. -/
theorem dropTurn_unlisted {s : State} (h : s.turns = []) : dropTurn s = s := by
  rw [dropTurn, h, List.tail_nil, ← h]

theorem step_engine {s : State} (h : nextTurn s = .engine) : step s = engineTurn (dropTurn s) := by
  simp [step, takeTurn, h]

theorem step_host {s : State} (h : nextTurn s = .host) : step s = hostTurn (dropTurn s) := by
  simp [step, takeTurn, h]

theorem step_reset {s : State} (h : nextTurn s = .reset) : step s = .next (resetInput (dropTurn s)) := by
  simp [step, takeTurn, h]

/-- Settles O7: the agent listed next, or the one the default names, fixes the turn and what is left of the list. -/
theorem stepIsTheTurnOfTheNextAgent : Obligations.StepIsTheTurnOfTheNextAgent := by
  intro s
  refine ⟨fun ts h => ?engine, fun ts h => ?host, fun ts h => ?reset, fun h hb => ?busy, fun h hb => ?notBusy⟩
  case engine => rw [step_engine (nextTurn_listed h), dropTurn_listed h]
  case host => rw [step_host (nextTurn_listed h), dropTurn_listed h]
  case reset => rw [step_reset (nextTurn_listed h), dropTurn_listed h]
  case busy => rw [step_engine (nextTurn_busy h hb), dropTurn_unlisted h]
  case notBusy => rw [step_host (nextTurn_notBusy h hb), dropTurn_unlisted h]

/-! ### The saturating counter -/

/-- One count in the naturals: below 255 the byte sum does not wrap, at 255 the counter stays (40 R427). -/
theorem sat8Succ_toNat (n : Byte) : (sat8Succ n).toNat = min (n.toNat + 1) 255 := by
  unfold sat8Succ
  split
  case isTrue h => simp [h]
  case isFalse h =>
    have hlt : n.toNat < 255 := by bv_omega
    have hsum : (n + 1).toNat = n.toNat + 1 := BitVec.toNat_add_of_lt (by simp; omega)
    omega

/-- Settles O54, by induction on the number of NACKs counted. -/
theorem nackCounterSaturates : Obligations.NackCounterSaturates := by
  intro n
  induction n with
  | zero => rfl
  | succ n ih =>
    calc (Nat.repeat sat8Succ (n + 1) 0).toNat
        = min ((Nat.repeat sat8Succ n 0).toNat + 1) 255 := sat8Succ_toNat _
      _ = min (n + 1) 255 := by rw [ih]; omega

/-! ### What a listener reads

Between the bytes of a transaction SCL is low and no level is held for the next bit, so the listener stands at
`busItems false d none` for some level `d` of SDA; each lemma says what the next primitive adds there. -/

/-- A data bit: SDA moves while SCL is low, which is no condition, and its level is read when SCL falls (40 R405). -/
theorem busItems_dataBit (d v : Bit) (es : List Event) :
    busItems false d none (.sda v :: .scl true :: .scl false :: es) = .bit v :: busItems false v none es := by
  simp [busItems]

/-- `p_start` from an idle bus (40 R406). -/
theorem busItems_startEvents (es : List Event) :
    busItems true true none (startEvents ++ es) = .start :: busItems false false none es := by
  simp [startEvents, busItems]

/-- `p_stop` (40 R407): SDA is low before SCL rises, whatever it was, so its rise is a STOP condition. -/
theorem busItems_stopEvents (d : Bit) : busItems false d none stopEvents = [.stop] := by
  simp [stopEvents, busItems]

/-- `p_write(b)` (40 R408): eight data bits, most significant first. -/
theorem busItems_writeEvents (d : Bit) (b : Byte) (es : List Event) :
    busItems false d none (writeEvents b ++ es) =
      bitsMsbFirst.map (fun i => .bit (bitOf b i)) ++ busItems false (bitOf b 0) none es := by
  simp [writeEvents, bitsMsbFirst, busItems_dataBit]

/-- `p_wait_ack` (40 R409): the bit read is the sampled level, not the level the block releases SDA to. -/
theorem busItems_ackEvents (d a : Bit) (es : List Event) :
    busItems false d none (ackEvents a ++ es) = .bit a :: busItems false true none es := by
  simp [ackEvents, busItems]

theorem ackedEvents_cons (p : Byte × Bit) (sent : List (Byte × Bit)) :
    ackedEvents (p :: sent) = writeEvents p.1 ++ (ackEvents p.2 ++ ackedEvents sent) := by
  simp [ackedEvents]

/-- The bytes of a transaction and its STOP, by induction on the bytes. -/
theorem busItems_ackedEvents_stop (d : Bit) (sent : List (Byte × Bit)) :
    busItems false d none (ackedEvents sent ++ stopEvents) =
      (sent.flatMap fun p => bitsMsbFirst.map (fun i => .bit (bitOf p.1 i)) ++ [.bit p.2]) ++ [.stop] := by
  induction sent generalizing d with
  | nil => exact busItems_stopEvents d
  | cons p sent ih =>
    simp only [ackedEvents_cons, List.append_assoc, busItems_writeEvents, busItems_ackEvents, ih, List.flatMap_cons,
      List.cons_append, List.nil_append]

/-- Settles O36: the START of an idle bus, then the bytes and the STOP. -/
theorem listenerReadsTheTransaction : Obligations.ListenerReadsTheTransaction := by
  intro sent
  rw [txnEvents, List.append_assoc, busItems_startEvents, busItems_ackedEvents_stop]
  rfl

end Sys2Proof.Machine

/-! PROOFS of the statements on the state of the device (10): the invariant of the machine, what each agent's steps leave
alone, the layout of the registers, and the raw commands and SNS_CONFIG on the bus. -/

namespace Sys2Proof.Machine

/-! ### What a micro-step leaves alone -/

@[simp] theorem noteAckSeq_cmd (s : State) : (noteAckSeq s).eng.cmd = s.eng.cmd := by
  unfold noteAckSeq; dsimp only; split <;> rfl

@[simp] theorem noteAckSeq_product (s : State) : (noteAckSeq s).eng.pos.product = s.eng.pos.product := by
  unfold noteAckSeq; dsimp only; split <;> rfl

@[simp] theorem noteAckRaw_cmd (s : State) : (noteAckRaw s).eng.cmd = s.eng.cmd := rfl

@[simp] theorem noteAckRaw_pos (s : State) : (noteAckRaw s).eng.pos = s.eng.pos := rfl

/-- What the engine leaves alone in every turn: all that is neither its own, nor the lines', nor a committed result. -/
structure EngineFrame (s u : State) : Prop where
  par : u.par = s.par
  regs : u.regs = s.regs
  fb : u.fb = s.fb
  host : u.host = s.host
  turns : u.turns = s.turns

theorem EngineFrame.refl (s : State) : EngineFrame s s := ⟨rfl, rfl, rfl, rfl, rfl⟩

theorem EngineFrame.trans {s t u : State} (h : EngineFrame s t) (h' : EngineFrame t u) : EngineFrame s u :=
  ⟨h'.par.trans h.par, h'.regs.trans h.regs, h'.fb.trans h.fb, h'.host.trans h.host, h'.turns.trans h.turns⟩

/-- What a micro-step leaves alone beside that: every committed result, the command word and what its commit writes. -/
structure MicroFrame (s u : State) : Prop where
  engine : EngineFrame s u
  status : u.status = s.status
  rxData : u.rxData = s.rxData
  samples : u.samples = s.samples
  cmd : u.eng.cmd = s.eng.cmd
  product : u.eng.pos.product = s.eng.pos.product

theorem microStep_frame {m : Micro} {s u : State} (h : microStep m s = .next u) : MicroFrame s u := by
  rcases microStep_next h with ⟨v, -, rfl⟩ | ⟨v, -, rfl⟩ | ⟨src, i, b, -, -, rfl⟩ | ⟨-, rfl⟩ | ⟨i, -, rfl⟩ | ⟨-, rfl⟩ |
    ⟨-, rfl⟩ | ⟨k, -, rfl⟩
  all_goals
    exact ⟨⟨by simp, by simp, by simp, by simp, by simp⟩, by simp, by simp, by simp, by simp, by simp⟩

/-- The micro-step of an engine turn starts from a state that differs in ENG alone. -/
theorem engineTurn_micro_frame {s u : State} {m : Micro} {rest : List Micro}
    (h : microStep m (settled (setTodo rest s)) = .next u) : MicroFrame s u := by
  obtain ⟨⟨hpar, hregs, hfb, hhost, hturns⟩, hst, hrx, hsm, hcmd, hpr⟩ := microStep_frame h
  exact ⟨⟨hpar, hregs, hfb, hhost, hturns⟩, hst, hrx, hsm, hcmd, hpr⟩

theorem engineTurn_frame {s u : State} (h : engineTurn s = .next u) : EngineFrame s u := by
  rcases engineTurn_next h with ⟨-, rfl⟩ | ⟨-, -, rfl⟩ | ⟨m, rest, -, -, h⟩
  · exact .refl _
  · exact ⟨rfl, rfl, rfl, rfl, rfl⟩
  · exact (engineTurn_micro_frame h).engine

/-- Settles O40: a micro-step changes no committed result, and after the commit BUSY = 0. -/
theorem engineTurnFrame : Obligations.EngineTurnFrame := by
  intro s u h
  have hf := engineTurn_frame h
  refine ⟨hf.par, hf.regs, hf.host, hf.turns, fun a => by rw [hf.fb], fun hb => ?_⟩
  rcases engineTurn_next h with ⟨-, rfl⟩ | ⟨-, -, rfl⟩ | ⟨m, rest, -, -, h⟩
  · exact ⟨rfl, rfl, rfl⟩
  · simp at hb
  · have hm := engineTurn_micro_frame h
    exact ⟨hm.status, hm.rxData, hm.samples⟩

/-! ### What a host access leaves alone -/

/-- What no host access changes. -/
structure HostFrame (s u : State) : Prop where
  par : u.par = s.par
  rxData : u.rxData = s.rxData
  samples : u.samples = s.samples
  lines : u.lines = s.lines
  traceRev : u.traceRev = s.traceRev
  env : u.env = s.env
  turns : u.turns = s.turns

theorem regWrite_frame (r : RegName) (v : Word) (s : State) : HostFrame s (regWrite r v s) := by
  cases r <;> exact ⟨rfl, rfl, rfl, rfl, rfl, rfl, rfl⟩

theorem submit_frame {w : Word} {s u : State} (h : submit w s = .next u) : HostFrame s u := by
  rcases submit_cases w s with ⟨c, hc⟩ | ⟨i, ms, p, ph, -, ha⟩
  · cases hc.symm.trans h
    exact ⟨rfl, rfl, rfl, rfl, rfl, rfl, rfl⟩
  · cases ha.symm.trans h
    exact ⟨rfl, rfl, rfl, rfl, rfl, rfl, rfl⟩

theorem hostWrite_frame {off size : Nat} {v : Word} {s u : State} (h : hostWrite off size v s = .next u) :
    HostFrame s u := by
  obtain ⟨-, r, -, -, ⟨-, hsub⟩ | ⟨-, rfl⟩⟩ := hostWrite_next h
  · exact submit_frame hsub
  · exact regWrite_frame r v s

theorem hostTurn_frame {s u : State} (h : hostTurn s = .next u) : HostFrame s u := by
  rcases hostTurn_next h with ⟨-, rfl⟩ | ⟨_, _, _, _, -, -, rfl⟩ | ⟨_, _, _, rest, -, hw⟩ | ⟨_, -, rfl | rfl⟩
  case inr.inr.inl =>
    obtain ⟨hpar, hrx, hsm, hlines, htrace, henv, hturns⟩ := hostWrite_frame hw
    exact ⟨hpar, hrx, hsm, hlines, htrace, henv, hturns⟩
  all_goals exact ⟨rfl, rfl, rfl, rfl, rfl, rfl, rfl⟩

/-- Settles O42: by the frame of the agent that moves; the reset input builds the device from its own parameters. -/
theorem parametersNeverChange : Obligations.ParametersNeverChange := by
  intro s u h
  rcases step_next h with ⟨-, h⟩ | ⟨-, h⟩ | ⟨-, rfl⟩
  · exact (hostTurn_frame h).par
  · exact (engineTurn_frame h).par
  · rfl

/-! ### The trace -/

/-- The lines after an event (40 R401, R402). -/
def Event.after (l : Lines) : Event → Lines
  | .scl v => { l with scl := v }
  | .sda v => { l with sda := v }
  | .smp b => { l with sampled := b }

/-- Every micro-step is one line event, and moves the lines as the event says (40 R401, R402). -/
theorem microStep_event {m : Micro} {s u : State} (h : microStep m s = .next u) :
    ∃ e, u.trace = s.trace ++ [e] ∧ u.lines = e.after s.lines := by
  rcases microStep_next h with ⟨v, -, rfl⟩ | ⟨v, -, rfl⟩ | ⟨src, i, b, -, -, rfl⟩ | ⟨-, rfl⟩ | ⟨i, -, rfl⟩ | ⟨-, rfl⟩ |
    ⟨-, rfl⟩ | ⟨k, -, rfl⟩
  · exact ⟨.scl v, by simp [State.trace], rfl⟩
  · exact ⟨.sda v, by simp [State.trace], rfl⟩
  · exact ⟨.sda (bitOf b i), by simp [State.trace], rfl⟩
  · exact ⟨.smp (sdaLevel s), by simp [State.trace], rfl⟩
  · exact ⟨.smp (sdaLevel s), by simp [State.trace], rfl⟩
  · exact ⟨.scl false, by simp [State.trace], rfl⟩
  · exact ⟨.scl false, by simp [State.trace], by simp [Event.after]⟩
  · exact ⟨.scl false, by simp [State.trace], rfl⟩

/-- An engine turn adds no event, or the one event of its micro-step. -/
theorem engineTurn_event {s u : State} (h : engineTurn s = .next u) :
    (u.trace = s.trace ∧ u.lines = s.lines) ∨ ∃ e, u.trace = s.trace ++ [e] ∧ u.lines = e.after s.lines := by
  rcases engineTurn_next h with ⟨-, rfl⟩ | ⟨-, -, rfl⟩ | ⟨m, rest, -, -, h⟩
  · exact .inl ⟨rfl, rfl⟩
  · exact .inl ⟨rfl, rfl⟩
  · exact .inr (microStep_event (s := settled (setTodo rest s)) h)

/-- Settles O43: the host's turn leaves trace and lines, and the engine's turn adds at most its micro-step's event. -/
theorem traceOnlyGrows : Obligations.TraceOnlyGrows := by
  intro s u h hreset
  rcases step_next h with ⟨-, h⟩ | ⟨hturn, h⟩ | ⟨hturn, -⟩
  · have hf := hostTurn_frame h
    exact .inl ⟨congrArg List.reverse hf.traceRev, hf.lines⟩
  · rcases engineTurn_event h with hsame | ⟨e, htrace, hlines⟩
    · exact .inl hsame
    · exact .inr ⟨hturn, e, htrace, by rw [hlines]; cases e <;> rfl⟩
  · exact absurd hturn hreset

/-! ### The rest of a procedure on the lines -/

/-- 10 R127 on the two lines, SDA where it is known: what a phase asks of a block that runs no command. -/
def LinesSuit (c : Bit) (d : Option Bit) : Phase → Prop
  | .idle => c = true ∧ d = some true
  | .addressing | .transfer => c = false

/-- `ms`, run from SCL `c` and SDA `d`, is safe on the lines and leaves them as the phase asks. -/
def EndsIn (ph : Phase) (ms : List Micro) (c : Bit) (d : Option Bit) : Prop :=
  lineSafe ms c d = true ∧ LinesSuit (lastScl ms c) (lastSda ms d) ph

theorem engineSound_iff (s : State) :
    EngineSound s ↔ EndsIn s.eng.newphase s.eng.pos.todo s.lines.scl (some s.lines.sda) := by
  unfold EngineSound EndsIn LinesSuit
  cases s.eng.newphase <;> rfl

theorem linesAtRest_iff (s : State) : LinesAtRest s ↔ LinesSuit s.lines.scl (some s.lines.sda) s.status.phase := by
  unfold LinesAtRest LinesSuit
  cases s.status.phase <;> simp

theorem linesAtRest_of_idle {s : State} (h : LinesAtRest s) (hp : s.status.phase = .idle) :
    s.lines.scl = true ∧ s.lines.sda = true := by
  simpa [LinesAtRest, hp] using h

theorem linesAtRest_of_not_idle {s : State} (h : LinesAtRest s) (hp : s.status.phase ≠ .idle) : s.lines.scl = false := by
  unfold LinesAtRest at h
  split at h
  · exact absurd ‹_› hp
  · exact h
  · exact h

/-- A procedure that is right when SDA is not known is right for every level of SDA. -/
theorem EndsIn.of_unknown {ph : Phase} {ms : List Micro} {c : Bit} (d : Option Bit) (h : EndsIn ph ms c none) :
    EndsIn ph ms c d := by
  obtain ⟨hsafe, hsuit⟩ := h
  refine ⟨lineSafe_mono hsafe, ?_⟩
  cases ph with
  | idle => exact ⟨hsuit.1, lastSda_mono hsuit.2⟩
  | addressing => exact hsuit
  | transfer => exact hsuit

/-- Procedures end to end, the first of which leaves SCL low. -/
theorem EndsIn.append_low {ph : Phase} {a b : List Micro} {c : Bit} {d : Option Bit} (ha : EndsIn .transfer a c d)
    (hb : EndsIn ph b false none) : EndsIn ph (a ++ b) c d := by
  have hlow : lastScl a c = false := ha.2
  obtain ⟨hsafe, hsuit⟩ := hb.of_unknown (lastSda a d)
  refine ⟨(lineSafe_append a b c d).2 ⟨ha.1, hlow ▸ hsafe⟩, ?_⟩
  rwa [lastScl_append, lastSda_append, hlow]

/-- Procedures end to end, the first of which leaves both lines released. -/
theorem EndsIn.append_released {ph : Phase} {a b : List Micro} {c : Bit} {d : Option Bit} (ha : EndsIn .idle a c d)
    (hb : EndsIn ph b true (some true)) : EndsIn ph (a ++ b) c d := by
  obtain ⟨hscl, hsda⟩ : lastScl a c = true ∧ lastSda a d = some true := ha.2
  obtain ⟨hsafe, hsuit⟩ := hb
  refine ⟨(lineSafe_append a b c d).2 ⟨ha.1, by rwa [hscl, hsda]⟩, ?_⟩
  rwa [lastScl_append, lastSda_append, hscl, hsda]

theorem endsIn_flatMap_low {α : Type} (f : α → List Micro) (hf : ∀ a, EndsIn .transfer (f a) false none) (l : List α) :
    EndsIn .transfer (l.flatMap f) false none := by
  induction l with
  | nil => exact ⟨rfl, rfl⟩
  | cons a l ih => exact (hf a).append_low ih

theorem endsIn_flatMap_released {α : Type} (f : α → List Micro) (hf : ∀ a, EndsIn .idle (f a) true (some true))
    (l : List α) : EndsIn .idle (l.flatMap f) true (some true) := by
  induction l with
  | nil => exact ⟨rfl, rfl, rfl⟩
  | cons a l ih => exact (hf a).append_released ih

theorem endsIn_pStart (c : Bit) (d : Option Bit) : EndsIn .transfer pStart c d := ⟨rfl, rfl⟩

theorem endsIn_pStop (c : Bit) (d : Option Bit) : EndsIn .idle pStop c d := ⟨rfl, rfl, rfl⟩

theorem endsIn_pWrite (src : ByteSrc) : EndsIn .transfer (pWrite src) false none := ⟨rfl, rfl⟩

theorem endsIn_ackedWrite (src : ByteSrc) : EndsIn .transfer (ackedWrite src) false none := ⟨rfl, rfl⟩

theorem endsIn_rawAck : EndsIn .transfer (pWaitAck .ackRaw) false none := ⟨rfl, rfl⟩

theorem endsIn_pRead (k : Bit) : EndsIn .transfer (pRead k (.scl false)) false none := ⟨rfl, rfl⟩

theorem endsIn_pRead_keep (k : Bit) (i : Fin 14) : EndsIn .transfer (pRead k (.keep i)) false none := ⟨rfl, rfl⟩

theorem endsIn_wrTxn (a7 : BitVec 7) (bytes : List ByteSrc) (c : Bit) (d : Option Bit) : EndsIn .idle (wrTxn a7 bytes) c d :=
  wrTxn_lines a7 bytes c d

/-- SNS_CONFIG: four write transactions (41 R504). -/
theorem endsIn_configProcedure (s : State) : EndsIn .idle (configProcedure s) true (some true) :=
  (((endsIn_wrTxn ..).append_released (endsIn_wrTxn ..)).append_released (endsIn_wrTxn ..)).append_released (endsIn_wrTxn ..)

/-- SNS_READ: all that follows the first START runs from SCL low, up to the STOP (41 R505). -/
theorem endsIn_readProcedure (s : State) : EndsIn .idle (readProcedure s) true (some true) := by
  have hreads : EndsIn .transfer burstReads false none := endsIn_flatMap_low _ (fun k => endsIn_pRead_keep _ k) _
  unfold readProcedure
  exact (((((((endsIn_pStart ..).append_low (endsIn_ackedWrite _)).append_low (endsIn_ackedWrite _)).append_low
    (endsIn_pStart ..)).append_low (endsIn_ackedWrite _)).append_low hreads).append_low (endsIn_pStop ..))

/-! ### What an accepted command starts -/

/-- What the commit of each command writes beside STATUS (10 R126): RXDATA only for READ_BYTE, the samples only for SNS_READ. -/
def productOf : Instr → Product
  | .readByte _ => .rxData
  | .snsRead => .samples
  | .start | .stop | .writeByte _ | .waitAck | .snsWake | .snsConfig | .dspInit | .dspSetWindow _ _ _ _ | .dspWriteFrame _
  | .dspPutchar _ | .dspSetCursor _ _ => .none

/-- The state in which command `i` has been accepted, and from lines at rest its procedure is safe and ends as its phase
asks. -/
def StartsCommand (i : Instr) (s t : State) : Prop :=
  ∃ ms ph, t = accept (encode i) ms (productOf i) ph s ∧
    (LinesAtRest s → EndsIn ph ms s.lines.scl (some s.lines.sda))

/-- A raw command other than START: it is accepted with SCL low. -/
theorem acceptRaw_starts {i : Instr} {s t : State} {ms : List Micro} {ph : Phase}
    (hms : EndsIn ph ms false none)
    (h : acceptRaw (encode i) ms (productOf i) ph s = .next t) : (∃ c, t = cmdError c s) ∨ StartsCommand i s t := by
  rcases acceptRaw_next h with ⟨-, rfl⟩ | ⟨hp, rfl⟩
  · exact .inl ⟨.seq, rfl⟩
  · exact .inr ⟨ms, ph, rfl, fun hrest => by rw [linesAtRest_of_not_idle hrest hp]; exact hms.of_unknown _⟩

/-- A sequencer command: it is accepted with both lines released, and leaves them so. -/
theorem acceptSequencer_starts {i : Instr} {s t : State} {ms : List Micro}
    (hms : EndsIn .idle ms true (some true))
    (h : acceptSequencer (encode i) ms (productOf i) s = .next t) : (∃ c, t = cmdError c s) ∨ StartsCommand i s t := by
  rcases acceptSequencer_next h with ⟨-, rfl⟩ | ⟨hp, rfl⟩
  · exact .inl ⟨.seq, rfl⟩
  · refine .inr ⟨ms, .idle, rfl, fun hrest => ?_⟩
    obtain ⟨hscl, hsda⟩ := linesAtRest_of_idle hrest hp
    rwa [hscl, hsda]

/-- Every command is rejected, or starts a procedure that is right on the lines. -/
theorem exec_starts {i : Instr} {s t : State} (h : exec i s = .next t) : (∃ c, t = cmdError c s) ∨ StartsCommand i s t := by
  cases i with
  | start =>
    cases h
    exact .inr ⟨pStart, .addressing, rfl, fun _ => endsIn_pStart ..⟩
  | stop => exact acceptRaw_starts (endsIn_pStop ..) h
  | writeByte byte => exact acceptRaw_starts (endsIn_pWrite _) h
  | waitAck => exact acceptRaw_starts endsIn_rawAck h
  | readByte ack => exact acceptRaw_starts (endsIn_pRead _) h
  | snsWake => exact acceptSequencer_starts (endsIn_wrTxn ..) h
  | snsConfig => exact acceptSequencer_starts (endsIn_configProcedure s) h
  | snsRead => exact acceptSequencer_starts (endsIn_readProcedure s) h
  | dspInit => exact acceptSequencer_starts (endsIn_flatMap_released _ (fun _ => endsIn_wrTxn ..) _) h
  | dspSetWindow cs ce ps pe => exact acceptSequencer_starts (endsIn_flatMap_released _ (fun _ => endsIn_wrTxn ..) _) h
  | dspWriteFrame len =>
    change execDspWriteFrame len s = .next t at h
    unfold execDspWriteFrame at h
    split at h
    · cases h
      exact .inl ⟨.inval, rfl⟩
    · exact acceptSequencer_starts (endsIn_flatMap_released _ (fun _ => endsIn_wrTxn ..) _) h
  | dspPutchar byte => exact acceptSequencer_starts (endsIn_wrTxn ..) h
  | dspSetCursor page col => exact acceptSequencer_starts (endsIn_flatMap_released _ (fun _ => endsIn_wrTxn ..) _) h

/-! ### The invariant -/

theorem machineInv_of_rest {s : State} (hfb : s.fb.wf) (hcmd : s.eng.cmd = none) (hb : s.status.busy = false)
    (hrest : LinesAtRest s) : MachineInv s :=
  ⟨hfb, by rw [hcmd, hb]; rfl, by rwa [hb]⟩

theorem machineInv_of_busy {s : State} (hfb : s.fb.wf) (hcmd : s.eng.cmd.isSome = true) (hb : s.status.busy = true)
    (hsound : EngineSound s) : MachineInv s :=
  ⟨hfb, by rw [hcmd, hb], by rwa [hb]⟩

theorem MachineInv.rest {s : State} (h : MachineInv s) (hb : s.status.busy = false) : LinesAtRest s := by
  simpa [hb] using h.2.2

theorem MachineInv.sound {s : State} (h : MachineInv s) (hb : s.status.busy = true) : EngineSound s := by
  simpa [hb] using h.2.2

theorem MachineInv.cmd_isSome {s : State} (h : MachineInv s) : s.eng.cmd.isSome = s.status.busy := h.2.1

theorem MachineInv.fb_wf {s : State} (h : MachineInv s) : s.fb.wf := h.1

theorem machineInv_resetWith (p : Params) : MachineInv (State.resetWith p) :=
  machineInv_of_rest ⟨List.Pairwise.nil, by simp [State.resetWith]⟩ rfl rfl ⟨rfl, rfl⟩

/-- Settles O44: FB is empty, the engine holds no command and both lines are released. -/
theorem invariantHoldsAtReset : Obligations.InvariantHoldsAtReset :=
  ⟨machineInv_resetWith Config.params, machineInv_resetWith⟩

/-- A micro-step keeps the rest of the procedure right: an abort puts `p_stop` in its place, which is right from any lines. -/
theorem microStep_keeps_endsIn {m : Micro} {s u : State} (h : microStep m s = .next u)
    (hs : EndsIn s.eng.newphase (m :: s.eng.pos.todo) s.lines.scl (some s.lines.sda)) : EngineSound u := by
  rw [engineSound_iff]
  rcases microStep_next h with ⟨v, rfl, rfl⟩ | ⟨v, rfl, rfl⟩ | ⟨src, i, b, rfl, -, rfl⟩ | ⟨rfl, rfl⟩ | ⟨i, rfl, rfl⟩ |
    ⟨rfl, rfl⟩ | ⟨rfl, rfl⟩ | ⟨k, rfl, rfl⟩
  · exact hs
  · exact hs
  · have hunknown : EndsIn s.eng.newphase s.eng.pos.todo s.lines.scl none :=
      ⟨(Bool.and_eq_true_iff.1 hs.1).2, hs.2⟩
    exact hunknown.of_unknown _
  · exact ⟨(Bool.and_eq_true_iff.1 hs.1).2, hs.2⟩
  · exact ⟨(Bool.and_eq_true_iff.1 hs.1).2, hs.2⟩
  · exact hs
  · by_cases hgo : (scl false s).lines.sampled = false ∨ (scl false s).regs.abortOnNack = false
    · rw [noteAckSeq_goesOn hgo]
      exact hs
    · simp only [not_or, Bool.not_eq_false] at hgo
      rw [noteAckSeq_aborts hgo.1 hgo.2]
      exact endsIn_pStop ..
  · exact hs

theorem engineTurn_keeps_machineInv {s u : State} (hs : MachineInv s) (h : engineTurn s = .next u) : MachineInv u := by
  rcases engineTurn_next h with ⟨-, rfl⟩ | ⟨hb, hdone, rfl⟩ | ⟨m, rest, hb, htodo, h⟩
  · exact hs
  · have hsound := (engineSound_iff s).1 (hs.sound hb)
    rw [hdone] at hsound
    exact machineInv_of_rest hs.fb_wf rfl rfl ((linesAtRest_iff _).2 hsound.2)
  · have hf := engineTurn_micro_frame h
    have hsound := (engineSound_iff s).1 (hs.sound hb)
    rw [htodo] at hsound
    exact machineInv_of_busy (hf.engine.fb ▸ hs.fb_wf) (by rw [hf.cmd, hs.cmd_isSome, hb]) (by rw [hf.status, hb])
      (microStep_keeps_endsIn h hsound)

theorem cmdError_keeps_machineInv {s : State} (c : ErrCode) (hs : MachineInv s) : MachineInv (cmdError c s) := hs

theorem submit_keeps_machineInv {w : Word} {s u : State} (hs : MachineInv s) (hb : s.status.busy = false)
    (h : submit w s = .next u) : MachineInv u := by
  unfold submit at h
  split at h
  · rcases exec_starts h with ⟨c, rfl⟩ | ⟨ms, ph, rfl, hsound⟩
    · exact cmdError_keeps_machineInv c hs
    · exact machineInv_of_busy hs.fb_wf rfl rfl ((engineSound_iff _).2 (hsound (hs.rest hb)))
  · cases h
    exact cmdError_keeps_machineInv _ hs

/-- A store keeps the invariant: only that of an FB word touches what it speaks of, and the word is inside FB. -/
theorem regWrite_keeps_machineInv {r : RegName} {off size : Nat} (v : Word) {s : State} (hs : MachineInv s)
    (hr : accessReg off size = .ok r) : MachineInv (regWrite r v s) := by
  cases r with
  | fbWord j => exact ⟨fbWriteWord_wf v hs.fb_wf (accessReg_fbWord hr), hs.2⟩
  | _ => exact hs

theorem hostWrite_keeps_machineInv {off size : Nat} {v : Word} {s u : State} (hs : MachineInv s)
    (h : hostWrite off size v s = .next u) : MachineInv u := by
  obtain ⟨hb, r, hr, -, ⟨-, hsub⟩ | ⟨-, rfl⟩⟩ := hostWrite_next h
  · exact submit_keeps_machineInv hs hb hsub
  · exact regWrite_keeps_machineInv v hs hr

theorem hostTurn_keeps_machineInv {s u : State} (hs : MachineInv s) (h : hostTurn s = .next u) : MachineInv u := by
  rcases hostTurn_next h with ⟨-, rfl⟩ | ⟨_, _, _, _, -, -, rfl⟩ | ⟨_, _, _, rest, -, hw⟩ | ⟨_, -, rfl | rfl⟩
  · exact hs
  · exact hs
  · exact hostWrite_keeps_machineInv (s := setProgram rest s) hs hw
  · exact hs
  · exact hs

/-- Settles O45: the invariant does not speak of the turns, and each agent's turn keeps it. -/
theorem everyStepKeepsTheInvariant : Obligations.EveryStepKeepsTheInvariant := by
  intro s u hs h
  have hd : MachineInv (dropTurn s) := hs
  rcases step_next h with ⟨-, h⟩ | ⟨-, h⟩ | ⟨-, rfl⟩
  · exact hostTurn_keeps_machineInv hd h
  · exact engineTurn_keeps_machineInv hd h
  · exact machineInv_resetWith s.par

/-- What every step keeps holds after every run. -/
theorem run_keeps {P : State → Prop} (hstep : ∀ s u, P s → step s = .next u → P u) {n : Nat} {s u : State} (hs : P s)
    (h : Host.Core.run Sys2Proof.core n s = .next u) : P u := by
  induction n generalizing s with
  | zero => cases h; exact hs
  | succ n ih =>
    simp only [Host.Core.run] at h
    split at h
    case h_1 s' hs' => exact ih (hstep s s' hs hs') h
    case h_2 => cases h
    case h_3 => cases h

/-- Settles O46: the invariant holds at reset, whatever the host's program and the turns, so it holds after every run. -/
theorem linesAtRestWheneverNotBusy : Obligations.LinesAtRestWheneverNotBusy := by
  intro p ops ts n u h hb
  have hstart : MachineInv { State.resetWith p with host := ⟨ops, []⟩, turns := ts } := machineInv_resetWith p
  have hrest := (run_keeps everyStepKeepsTheInvariant hstart h).rest hb
  refine ⟨linesAtRest_of_idle hrest, fun hp => linesAtRest_of_not_idle hrest ?_⟩
  rcases hp with hp | hp <;> simp [hp]

/-! ### What a whole command leaves alone -/

/-- What command `i`, accepted in `s`, has left alone when the engine has come to `u`; and, while it runs, what its commit is
going to write. -/
structure CommandKeeps (i : Instr) (s u : State) : Prop where
  frame : EngineFrame s u
  rxData : (∀ k, i ≠ .readByte k) → u.rxData = s.rxData
  samples : i ≠ .snsRead → u.samples = s.samples
  sampleValid : i ≠ .snsRead → u.status.sampleValid = s.status.sampleValid
  product : u.status.busy = true → u.eng.pos.product = productOf i

theorem productOf_ne_rxData {i : Instr} (h : ∀ k, i ≠ .readByte k) : productOf i ≠ .rxData := by
  cases i with
  | readByte k => exact absurd rfl (h k)
  | _ => simp [productOf]

theorem productOf_ne_samples {i : Instr} (h : i ≠ .snsRead) : productOf i ≠ .samples := by
  cases i with
  | snsRead => exact absurd rfl h
  | _ => simp [productOf]

theorem commit_rxData_of_ne {s : State} (h : s.eng.pos.product ≠ .rxData) : (commit s).rxData = s.rxData := by
  cases hp : s.eng.pos.product <;> simp_all [commit]

theorem commit_samples_of_ne {s : State} (h : s.eng.pos.product ≠ .samples) : (commit s).samples = s.samples := by
  cases hp : s.eng.pos.product <;> simp_all [commit]

theorem commit_sampleValid_of_ne {s : State} (h : s.eng.pos.product ≠ .samples) :
    (commit s).status.sampleValid = s.status.sampleValid := by
  cases hp : s.eng.pos.product <;> simp_all [committedValid]

theorem exec_commandKeeps {i : Instr} {s t : State} (hb : s.status.busy = false) (h : exec i s = .next t) :
    CommandKeeps i s t := by
  rcases exec_starts h with ⟨c, rfl⟩ | ⟨ms, ph, rfl, -⟩
  · exact ⟨⟨rfl, rfl, rfl, rfl, rfl⟩, fun _ => rfl, fun _ => rfl, fun _ => rfl, fun hbusy => by simp [hb] at hbusy⟩
  · exact ⟨⟨rfl, rfl, rfl, rfl, rfl⟩, fun _ => rfl, fun _ => rfl, fun _ => rfl, fun _ => rfl⟩

theorem engineTurn_commandKeeps {i : Instr} {s t u : State} (hk : CommandKeeps i s t) (h : engineTurn t = .next u) :
    CommandKeeps i s u := by
  have hf := hk.frame.trans (engineTurn_frame h)
  rcases engineTurn_next h with ⟨-, rfl⟩ | ⟨hb, -, rfl⟩ | ⟨m, rest, hb, -, h⟩
  · exact hk
  · have hp := hk.product hb
    exact
      { frame := hf
        rxData := fun hi => (commit_rxData_of_ne (hp ▸ productOf_ne_rxData hi)).trans (hk.rxData hi)
        samples := fun hi => (commit_samples_of_ne (hp ▸ productOf_ne_samples hi)).trans (hk.samples hi)
        sampleValid := fun hi => (commit_sampleValid_of_ne (hp ▸ productOf_ne_samples hi)).trans (hk.sampleValid hi)
        product := fun hbusy => by simp at hbusy }
  · have hm := engineTurn_micro_frame h
    exact
      { frame := hf
        rxData := fun hi => hm.rxData.trans (hk.rxData hi)
        samples := fun hi => hm.samples.trans (hk.samples hi)
        sampleValid := fun hi => (congrArg Status.sampleValid hm.status).trans (hk.sampleValid hi)
        product := fun _ => hm.product.trans (hk.product hb) }

/-- What every engine turn keeps holds after any number of them. -/
theorem engineTurns_keeps {P : State → Prop} (hturn : ∀ s u, P s → engineTurn s = .next u → P u) {n : Nat} {s u : State}
    (hs : P s) (h : engineTurns n s = .next u) : P u := by
  induction n generalizing s with
  | zero => cases h; exact hs
  | succ n ih =>
    unfold engineTurns at h
    split at h
    case h_1 s' hs' => exact ih (hturn s s' hs hs') h
    case h_2 => cases h
    case h_3 => cases h

/-- Settles O41: the commit writes only the product the command was accepted with. -/
theorem commandFrame : Obligations.CommandFrame := by
  intro i s t u n hb hexec hrun
  have hk := engineTurns_keeps (P := CommandKeeps i s) (fun _ _ => engineTurn_commandKeeps)
    (exec_commandKeeps hb hexec) hrun
  exact ⟨hk.frame.par, hk.frame.regs, hk.frame.host, hk.frame.turns, fun a => by rw [hk.frame.fb], hk.rxData,
    fun hi => ⟨hk.samples hi, hk.sampleValid hi⟩⟩

/-! ### The register map -/

/-- The offset of a register (10 R104). -/
def offsetOf : RegName → Nat
  | .ctrl => 0x000
  | .delay => 0x004
  | .status => 0x008
  | .cmd => 0x00C
  | .rxData => 0x010
  | .lines => 0x014
  | .snsAddr => 0x018
  | .dspAddr => 0x01C
  | .snsCfg => 0x020
  | .chunk => 0x024
  | .sampleAx => 0x040
  | .sampleAy => 0x044
  | .sampleAz => 0x048
  | .sampleT => 0x04C
  | .sampleGx => 0x050
  | .sampleGy => 0x054
  | .sampleGz => 0x058
  | .fbWord j => 0x400 + 4 * j

/-- One entry of the map at a time: the offset is this entry's, or the rest of the map decides. -/
theorem ite_eq_iff_or {α : Type} {c : Prop} [Decidable c] (a b x : α) :
    (if c then a else b) = x ↔ (c ∧ a = x) ∨ (¬c ∧ b = x) := by
  by_cases h : c
  · simp only [h, if_true, true_and, not_true_eq_false, false_and, or_false]
  · simp only [h, if_false, false_and, not_false_eq_true, true_and, false_or]

/-- A register is at its own offset only (10 R104). -/
theorem offset_of_regAt {off : Nat} {r : RegName} (h : regAt off = some r) (ha : off % 4 = 0) : off = offsetOf r := by
  simp only [regAt, ite_eq_iff_or, Option.some.injEq, reduceCtorEq, and_false, or_false] at h
  repeat
    obtain ⟨rfl, rfl⟩ | ⟨-, h⟩ := h
    · rfl
  obtain ⟨hrange, rfl⟩ := h
  simp only [offsetOf]
  omega

/-- The aligned offsets that name no register are the gaps of the map (10 R105). -/
theorem regAt_eq_none_iff {off : Nat} (ha : off % 4 = 0) :
    regAt off = none ↔ (0x028 ≤ off ∧ off ≤ 0x03C) ∨ (0x05C ≤ off ∧ off ≤ 0x3FC) ∨ 0x800 ≤ off := by
  simp only [regAt, ite_eq_iff_or, reduceCtorEq, and_false, and_true, false_or]
  omega

theorem regAt_fbWord {j : Nat} (h : j < 256) : regAt (0x400 + 4 * j) = some (.fbWord j) := by
  unfold regAt
  repeat rw [if_neg (by omega)]
  rw [if_pos (by omega)]
  congr 2
  omega

/-- A register that refuses writes is STATUS, RXDATA, LINES or a sample register (10 R104, 20 R201). -/
theorem readOnly_iff (r : RegName) : readOnly r = true ↔
    offsetOf r = 0x008 ∨ offsetOf r = 0x010 ∨ offsetOf r = 0x014 ∨ (0x040 ≤ offsetOf r ∧ offsetOf r ≤ 0x058) := by
  cases r with
  | fbWord j => simp only [readOnly, offsetOf, Bool.false_eq_true, false_iff]; omega
  | _ => decide

/-! ### The checks of an access -/

theorem accessReg_illFormed {off size : Nat} (h : size ≠ 4 ∨ off % 4 ≠ 0) :
    accessReg off size = .error (.busError .sizeOrAlignment off) := if_pos h

theorem accessReg_unmapped {off : Nat} (ha : off % 4 = 0) (h : regAt off = none) :
    accessReg off 4 = .error (.busError .unmapped off) := by
  simp [accessReg, ha, h]

theorem accessReg_mapped {off : Nat} {r : RegName} (ha : off % 4 = 0) (h : regAt off = some r) :
    accessReg off 4 = .ok r := by
  simp [accessReg, ha, h]

/-- An access that passes its checks is aligned, and reaches the register at its offset. -/
theorem accessReg_ok {off size : Nat} {r : RegName} (h : accessReg off size = .ok r) :
    size = 4 ∧ off % 4 = 0 ∧ regAt off = some r := by
  unfold accessReg at h
  split at h
  · cases h
  · split at h
    · cases h
      refine ⟨by omega, by omega, ‹_›⟩
    · cases h

theorem accessReg_fb {j : Nat} (h : j < 256) : accessReg (0x400 + 4 * j) 4 = .ok (.fbWord j) :=
  accessReg_mapped (by omega) (regAt_fbWord h)

theorem hostRead_of_error {off size : Nat} {f : Fault} (s : State) (h : accessReg off size = .error f) :
    hostRead off size s = .error f := by
  simp [hostRead, h]

theorem hostRead_of_reg {off size : Nat} {r : RegName} (s : State) (h : accessReg off size = .ok r) :
    hostRead off size s = regRead s r := by
  simp [hostRead, h]

theorem hostWrite_of_error {off size : Nat} {f : Fault} (v : Word) (s : State) (h : accessReg off size = .error f) :
    hostWrite off size v s = .fault f := by
  simp [hostWrite, h]

theorem hostWrite_of_readOnly {off size : Nat} {r : RegName} (v : Word) (s : State) (h : accessReg off size = .ok r)
    (hro : readOnly r = true) : hostWrite off size v s = .fault (.busError .readOnly off) := by
  simp [hostWrite, h, hro]

theorem hostWrite_of_busy {off size : Nat} {r : RegName} (v : Word) {s : State} (h : accessReg off size = .ok r)
    (hro : readOnly r = false) (hb : s.status.busy = true) : hostWrite off size v s = .fault (.busError .busy off) := by
  simp [hostWrite, h, hro, hb]

theorem hostWrite_of_cmd {off size : Nat} (v : Word) {s : State} (h : accessReg off size = .ok .cmd)
    (hb : s.status.busy = false) : hostWrite off size v s = submit v s := by
  simp [hostWrite, h, hb, readOnly]

theorem hostWrite_of_store {off size : Nat} {r : RegName} (v : Word) {s : State} (h : accessReg off size = .ok r)
    (hro : readOnly r = false) (hcmd : r ≠ .cmd) (hb : s.status.busy = false) :
    hostWrite off size v s = .next (regWrite r v s) := by
  simp [hostWrite, h, hro, hb, hcmd]

/-- Reading a register can stop at an unwritten FB byte, never at a BusError. -/
theorem regRead_ne_busError (s : State) (r : RegName) (c : BusCause) (o : Nat) : regRead s r ≠ .error (.busError c o) := by
  cases r with
  | fbWord j =>
    simp only [regRead, fbWord]
    split <;> simp
  | _ => simp [regRead]

theorem submit_answers (w : Word) (s : State) : ∃ t, submit w s = .next t := by
  rcases submit_cases w s with ⟨c, h⟩ | ⟨i, ms, p, ph, -, h⟩
  · exact ⟨_, h⟩
  · exact ⟨_, h⟩

theorem hostWrite_performed {off size : Nat} {r : RegName} (v : Word) {s : State} (h : accessReg off size = .ok r)
    (hro : readOnly r = false) (hb : s.status.busy = false) : ∃ t, hostWrite off size v s = .next t := by
  by_cases hcmd : r = .cmd
  · subst hcmd
    rw [hostWrite_of_cmd v h hb]
    exact submit_answers v s
  · exact ⟨_, hostWrite_of_store v h hro hcmd hb⟩

/-- Settles O10: the checks of an access in their order, and the gaps of the map. -/
theorem busErrorsInOrder : Obligations.BusErrorsInOrder := by
  intro off size v s
  refine ⟨fun h => ?illFormed, fun hsize ha => ?_⟩
  case illFormed =>
    have hacc := accessReg_illFormed h
    exact ⟨hostRead_of_error s hacc, hostWrite_of_error v s hacc⟩
  subst hsize
  cases hr : regAt off with
  | none =>
    have hacc := accessReg_unmapped ha hr
    have hgap := (regAt_eq_none_iff ha).1 hr
    refine ⟨fun _ => ⟨hostRead_of_error s hacc, hostWrite_of_error v s hacc⟩, ?_, ?_, ?_⟩ <;> intro h <;> omega
  | some r =>
    have hacc := accessReg_mapped ha hr
    have hgap := mt (regAt_eq_none_iff ha).2 (by simp [hr])
    have hro : readOnly r = true ↔ off = 0x008 ∨ off = 0x010 ∨ off = 0x014 ∨ (0x040 ≤ off ∧ off ≤ 0x058) := by
      rw [readOnly_iff, ← offset_of_regAt hr ha]
    refine ⟨fun h => absurd h hgap, fun _ c o => ?read, fun h => ?refused, fun h => ?writable⟩
    case read =>
      rw [hostRead_of_reg s hacc]
      exact regRead_ne_busError s r c o
    case refused => exact hostWrite_of_readOnly v s hacc (hro.2 h)
    case writable =>
      have hrw : readOnly r = false := by
        rw [← Bool.not_eq_true, hro]
        omega
      exact ⟨hostWrite_of_busy v hacc hrw, hostWrite_performed v hacc hrw⟩

/-! ### The layout of the registers -/

/-- A field of `n` bits read as a word: reserved bits 0 (10 R105). -/
theorem zeroExtend_eq_append {n : Nat} (x : BitVec n) (h : n ≤ 32) :
    x.zeroExtend 32 = (0#(32 - n) ++ x).cast (Nat.sub_add_cancel h) :=
  BitVec.setWidth_eq_append h

/-- Settles O58: each offset names its register, whatever the state. -/
theorem registersReadTheirFields : Obligations.RegistersReadTheirFields := by
  intro s
  refine ⟨?ctrl, ?delay, ?rxData, ?snsAddr, ?dspAddr, rfl, ?chunk, rfl, rfl, rfl, rfl, rfl, rfl, rfl⟩
  case ctrl => exact congrArg Except.ok (zeroExtend_eq_append (bit1 s.regs.abortOnNack) (by decide))
  case delay => exact congrArg Except.ok (zeroExtend_eq_append s.regs.delay (by decide))
  case rxData => exact congrArg Except.ok (zeroExtend_eq_append s.rxData (by decide))
  case snsAddr => exact congrArg Except.ok (zeroExtend_eq_append s.regs.snsAddr (by decide))
  case dspAddr => exact congrArg Except.ok (zeroExtend_eq_append s.regs.dspAddr (by decide))
  case chunk => exact congrArg Except.ok (zeroExtend_eq_append s.regs.chunk (by decide))

theorem hostRead_status (s : State) : hostRead 0x008 4 s = .ok (statusWord s.status) := rfl

theorem hostRead_lines (s : State) : hostRead 0x014 4 s = .ok (linesWord s.lines) := rfl

/-- STATUS refuses every write: by its size, or as a read-only register. -/
theorem hostWrite_status (size : Nat) (v : Word) (s : State) : ∃ c, hostWrite 0x008 size v s = .fault (.busError c 0x008) := by
  by_cases h : size = 4
  · subst h
    exact ⟨.readOnly, hostWrite_of_readOnly v s (r := .status) rfl rfl⟩
  · exact ⟨.sizeOrAlignment, hostWrite_of_error v s (accessReg_illFormed (.inl h))⟩

theorem statusWord_fields (st : Status) :
    (statusWord st).getLsbD 0 = st.busy ∧ (statusWord st).getLsbD 1 = st.ack ∧
      (statusWord st).extractLsb' 2 2 = phaseCode st.phase ∧ (statusWord st).extractLsb' 4 4 = errCode st.err ∧
      (statusWord st).extractLsb' 8 8 = st.nackCnt ∧ (statusWord st).getLsbD 16 = st.sampleValid ∧
      (statusWord st).extractLsb' 17 15 = 0 := by
  unfold statusWord
  refine ⟨?busy, ?ack, ?phase, ?err, ?nackCnt, ?sampleValid, BitVec.extractLsb'_append_eq_left⟩
  case busy | ack | sampleValid =>
    rw [BitVec.getLsbD_append (n := 15) (m := 1 + (8 + (4 + (2 + (1 + 1)))))]
    simp only [BitVec.getLsbD_append]
    simp [bit1]
  all_goals
    rw [BitVec.extractLsb'_append_eq_of_add_le (v := 15) (w := 1 + (8 + (4 + (2 + (1 + 1))))) (by decide)]
    simp (disch := decide) only [BitVec.extractLsb'_append_eq_of_add_le, BitVec.extractLsb'_append_eq_of_le]
    exact BitVec.extractLsb'_eq_self

/-- Settles O13: the fields of the STATUS word are those it is put together from. -/
theorem statusRegisterLayout : Obligations.StatusRegisterLayout := by
  exact ⟨⟨rfl, rfl, rfl⟩, ⟨rfl, rfl, rfl, rfl, rfl⟩, fun s => ⟨_, hostRead_status s, statusWord_fields s.status⟩,
    fun _ => congrArg Except.ok (show statusWord ⟨false, false, .idle, .none, 0, false⟩ = 0 by decide),
    fun s size v => hostWrite_status size v s⟩

theorem linesWord_fields (l : Lines) : (linesWord l).getLsbD 0 = l.scl ∧ (linesWord l).getLsbD 1 = l.sda ∧
    (linesWord l).getLsbD 2 = l.sampled ∧ (linesWord l).extractLsb' 3 29 = 0 := by
  unfold linesWord
  refine ⟨?scl, ?sda, ?sampled, BitVec.extractLsb'_append_eq_left⟩
  all_goals
    rw [BitVec.getLsbD_append (n := 29) (m := 1 + (1 + 1))]
    simp only [BitVec.getLsbD_append]
    simp [bit1]

/-- Settles O14: LINES is read from the line state itself, which an SCL write of the engine changes at once. -/
theorem linesRegisterIsLive : Obligations.LinesRegisterIsLive := by
  refine ⟨fun s => ⟨_, hostRead_lines s, linesWord_fields s.lines⟩, 
    fun _ => congrArg Except.ok (show linesWord ⟨true, true, true⟩ = 7 by decide), fun s b htodo hb => ?_⟩
  exact ⟨_, engineTurn_micro hb htodo, rfl⟩

/-! ### Writing a register and reading it back -/

/-- The low `n` bits of a word, as a field of `n` bits holds them. -/
theorem zeroExtend_extractLsb'_eq_and (v : Word) (n : Nat) :
    (v.extractLsb' 0 n).zeroExtend 32 = v &&& BitVec.ofNat 32 (2 ^ n - 1) := by
  apply BitVec.eq_of_getLsbD_eq
  intro i hi
  simp only [BitVec.getLsbD_setWidth, BitVec.getLsbD_extractLsb', BitVec.getLsbD_and, BitVec.getLsbD_ofNat,
    Nat.testBit_two_pow_sub_one, hi, decide_true, Bool.true_and, Nat.zero_add, Bool.and_comm]

theorem zeroExtend_bit1_eq_and (v : Word) : (bit1 (v.getLsbD 0)).zeroExtend 32 = v &&& 1 := by
  have h : bit1 (v.getLsbD 0) = v.extractLsb' 0 1 := by
    apply BitVec.eq_of_getLsbD_eq
    intro i hi
    simp [bit1, show i = 0 by omega]
  rw [h]
  exact zeroExtend_extractLsb'_eq_and v 1

theorem fbWriteWord_read_same (m : Memory) (j k : Nat) (v : Word) (hk : k < 4) :
    (fbWriteWord m j v).read (4 * j + k) = some (wordByte v k) := by
  unfold fbWriteWord
  obtain rfl | rfl | rfl | rfl : k = 0 ∨ k = 1 ∨ k = 2 ∨ k = 3 := by omega
  all_goals
    simp (disch := omega) [Memory.read_write_other]

/-- A word is its four bytes. -/
theorem wordOfBytes_wordByte (v : Word) : wordOfBytes (wordByte v 0) (wordByte v 1) (wordByte v 2) (wordByte v 3) = v := by
  unfold wordOfBytes wordByte
  rw [BitVec.extractLsb'_append_extractLsb'_eq_extractLsb' (show 8 * 1 = 8 * 0 + 8 by rfl),
    BitVec.extractLsb'_append_extractLsb'_eq_extractLsb' (show 8 * 2 = 8 * 0 + (8 + 8) by rfl),
    BitVec.extractLsb'_append_extractLsb'_eq_extractLsb' (show 8 * 3 = 8 * 0 + (8 + (8 + 8)) by rfl)]
  exact BitVec.extractLsb'_eq_self

theorem fbWord_fbWriteWord (m : Memory) (j : Nat) (v : Word) : fbWord (fbWriteWord m j v) j = .ok v :=
  (fbWord_ok_iff _ j v).2 ⟨_, _, _, _, fbWriteWord_read_same m j 0 v (by omega), fbWriteWord_read_same m j 1 v (by omega),
    fbWriteWord_read_same m j 2 v (by omega), fbWriteWord_read_same m j 3 v (by omega), (wordOfBytes_wordByte v).symm⟩

/-- The registers that have fields of their own in `Regs`. -/
def isConfig : RegName → Bool
  | .ctrl | .delay | .snsAddr | .dspAddr | .snsCfg | .chunk => true
  | .status | .cmd | .rxData | .lines | .sampleAx | .sampleAy | .sampleAz | .sampleT | .sampleGx | .sampleGy | .sampleGz
  | .fbWord _ => false

theorem regWrite_config {r : RegName} (h : isConfig r = true) (v : Word) (s : State) :
    regWrite r v s = { s with regs := (regWrite r v s).regs } := by
  cases r with
  | ctrl | delay | snsAddr | dspAddr | snsCfg | chunk => rfl
  | _ => cases h

/-- A register outside the configuration does not read the configuration. -/
theorem regRead_withRegs {r : RegName} (h : isConfig r = false) (s : State) (regs : Regs) :
    regRead { s with regs := regs } r = regRead s r := by
  cases r with
  | ctrl | delay | snsAddr | dspAddr | snsCfg | chunk => cases h
  | _ => rfl

/-- A configuration register reads as before when another one has been written. -/
theorem regRead_regWrite_other {r r' : RegName} (h : isConfig r = true) (hne : r' ≠ r) (v : Word) (s : State) :
    regRead (regWrite r v s) r' = regRead s r' := by
  cases hr' : isConfig r' with
  | false => rw [regWrite_config h, regRead_withRegs hr']
  | true =>
    cases r with
    | ctrl | delay | snsAddr | dspAddr | snsCfg | chunk =>
      cases r' with
      | ctrl | delay | snsAddr | dspAddr | snsCfg | chunk => simp_all [regRead, regWrite]
      | _ => cases hr'
    | _ => cases h

/-- A host write of a configuration register: what it leaves, read at every offset. -/
theorem write_config {off : Nat} {r : RegName} {mask v : Word} {s : State} (hb : s.status.busy = false)
    (hacc : accessReg off 4 = .ok r) (hr : isConfig r = true) (hback : regRead (regWrite r v s) r = .ok (v &&& mask)) :
    ∃ t, hostWrite off 4 v s = .next t ∧ hostRead off 4 t = .ok (v &&& mask) ∧ t = { s with regs := t.regs } ∧
      ∀ off', off' ≠ off → hostRead off' 4 t = hostRead off' 4 s := by
  have hrw : readOnly r = false ∧ r ≠ .cmd := by
    cases r with
    | ctrl | delay | snsAddr | dspAddr | snsCfg | chunk => exact ⟨rfl, by simp⟩
    | _ => cases hr
  refine ⟨_, hostWrite_of_store v hacc hrw.1 hrw.2 hb, (hostRead_of_reg _ hacc).trans hback, regWrite_config hr v s,
    fun off' hoff => ?_⟩
  cases hacc' : accessReg off' 4 with
  | error f => rw [hostRead_of_error _ hacc', hostRead_of_error _ hacc']
  | ok r' =>
    rw [hostRead_of_reg _ hacc', hostRead_of_reg _ hacc']
    refine regRead_regWrite_other hr (fun h => hoff ?_) v s
    obtain ⟨-, ha, hreg⟩ := accessReg_ok hacc
    obtain ⟨-, ha', hreg'⟩ := accessReg_ok hacc'
    rw [offset_of_regAt hreg ha, offset_of_regAt hreg' ha', h]

/-- Settles O15: each of the six registers reads back under the mask of its field. -/
theorem registerWriteThenRead : Obligations.RegisterWriteThenRead := by
  intro s v hb om hom
  simp only [List.mem_cons, List.not_mem_nil, or_false] at hom
  rcases hom with rfl | rfl | rfl | rfl | rfl | rfl
  · exact write_config hb (r := .ctrl) rfl rfl (congrArg Except.ok (zeroExtend_bit1_eq_and v))
  · exact write_config hb (r := .delay) rfl rfl (congrArg Except.ok (zeroExtend_extractLsb'_eq_and v 16))
  · exact write_config hb (r := .snsAddr) rfl rfl (congrArg Except.ok (zeroExtend_extractLsb'_eq_and v 7))
  · exact write_config hb (r := .dspAddr) rfl rfl (congrArg Except.ok (zeroExtend_extractLsb'_eq_and v 7))
  · exact write_config hb (r := .snsCfg) rfl rfl (congrArg Except.ok (BitVec.and_allOnes (x := v)).symm)
  · exact write_config hb (r := .chunk) rfl rfl (congrArg Except.ok (zeroExtend_extractLsb'_eq_and v 11))

/-- Settles O16: the word's four bytes, and no other, are written. -/
theorem framebufferWordWriteThenRead : Obligations.FramebufferWordWriteThenRead := by
  intro s j v hj hb
  have hacc := accessReg_fb hj
  refine ⟨_, hostWrite_of_store v hacc rfl (by simp) hb, ?_, rfl, fun k hk => fbWriteWord_read_same s.fb j k v hk,
    fun a ha => fbWriteWord_read_other s.fb j a v ha⟩
  rw [hostRead_of_reg _ hacc]
  exact fbWord_fbWriteWord s.fb j v

/-! ### The sample registers -/

/-- Settles O56: the high byte carries the sign, the low byte adds its unsigned value, and the sign extension keeps both. -/
theorem sampleValueIsTwosComplement : Obligations.SampleValueIsTwosComplement := by
  intro hi lo
  have hvalue : (sampleWord (v16 hi lo)).toInt = 2 ^ 8 * hi.toInt + lo.toNat := by
    rw [sampleWord, BitVec.toInt_signExtend_of_le (by omega), v16, BitVec.toInt_append]
    rfl
  rw [hvalue, BitVec.toInt_eq_toNat_cond]
  split <;> split <;> omega

/-! ### What a listener reads off the raw commands -/

/-- `p_start` with SCL low (40 R406): SDA is released and SCL rises before SDA falls, so it is a START condition. -/
theorem busItems_startEvents_low (d : Bit) : busItems false d none startEvents = [.start] := by
  simp [startEvents, busItems]

/-- A sampled bit of `p_read`: the listener takes the level the sample read (40 R405). -/
theorem busItems_sampledBit (d b : Bit) (es : List Event) :
    busItems false d none (.scl true :: .smp b :: .scl false :: es) = .bit b :: busItems false d none es := by
  simp [busItems]

theorem busItems_sampledBits (d : Bit) (f : Nat → Bit) (l : List Nat) (es : List Event) :
    busItems false d none (l.flatMap (fun j => [.scl true, .smp (f j), .scl false]) ++ es) =
      l.map (fun j => .bit (f j)) ++ busItems false d none es := by
  induction l with
  | nil => rfl
  | cons j l ih =>
    simp only [List.flatMap_cons, List.cons_append, List.nil_append, busItems_sampledBit, ih, List.map_cons]

/-- `p_read(k)` (40 R410): the eight bits the samples read, then the acknowledge bit. -/
theorem busItems_readEvents (d : Bit) (ans : Nat → Bit) (first : Nat) (k : Bit) :
    busItems false d none (readEvents ans first k) =
      (List.range 8).map (fun j => .bit (ans (first + j))) ++ [.bit (!k)] := by
  have hrelease : ∀ es, busItems false d none (.sda true :: es) = busItems false true none es := fun es => by simp [busItems]
  rw [readEvents, List.append_assoc, List.singleton_append, hrelease, busItems_sampledBits true fun j => ans (first + j),
    busItems_dataBit]
  rfl

/-- Settles O37: in IDLE the bus is idle, in the other phases SCL is low, and each primitive is read from there. -/
theorem listenerReadsTheRawCommands : Obligations.ListenerReadsTheRawCommands := by
  intro s hrest
  by_cases hp : s.status.phase = .idle
  · obtain ⟨hscl, hsda⟩ := linesAtRest_of_idle hrest hp
    rw [hscl, hsda]
    exact ⟨busItems_startEvents [], fun h => absurd hp h⟩
  · rw [linesAtRest_of_not_idle hrest hp]
    refine ⟨busItems_startEvents_low _, fun _ => ⟨busItems_stopEvents _, fun b => ?write, fun a => ?ack, fun ans k => ?read⟩⟩
    case write => simpa [busItems, bitsMsbFirst, bitOf] using busItems_writeEvents s.lines.sda b []
    case ack => simpa [busItems] using busItems_ackEvents s.lines.sda a []
    case read => simpa using busItems_readEvents s.lines.sda ans 0 k

/-! ### Runs of write transactions -/

/-- The NACK counter after the ack-waits `acks`, from `n` (40 R427). -/
def countNacks (acks : List Bit) (n : Byte) : Byte := acks.foldl (fun n a => if a then sat8Succ n else n) n

/-- ENG.lastack after the ack-waits `acks`. -/
def lastAck (acks : List Bit) (old : Option Bit) : Option Bit := acks.foldl (fun _ a => some (!a)) old

theorem countNacks_toNat (acks : List Bit) (n : Byte) :
    (countNacks acks n).toNat = min (n.toNat + acks.count true) 255 := by
  induction acks generalizing n with
  | nil => simp only [countNacks, List.foldl_nil, List.count_nil]; omega
  | cons a acks ih =>
    have hcons : countNacks (a :: acks) n = countNacks acks (if a then sat8Succ n else n) := rfl
    rw [hcons, ih]
    cases a
    · simp
    · rw [if_pos rfl, sat8Succ_toNat, List.count_cons_self]
      omega

theorem countNacks_zero (acks : List Bit) : countNacks acks 0 = nackCountOf acks := by
  apply BitVec.eq_of_toNat_eq
  have hzero : (0 : Byte).toNat = 0 := rfl
  rw [countNacks_toNat, hzero, nackCountOf, sat8, BitVec.toNat_ofNat]
  omega

theorem lastAck_eq (acks : List Bit) (old : Option Bit) : lastAck acks old = (acks.getLast?.map (!·)).or old := by
  induction acks generalizing old with
  | nil => rfl
  | cons a acks ih =>
    have hcons : lastAck (a :: acks) old = lastAck acks (some !a) := rfl
    rw [hcons, ih, List.getLast?_cons]
    cases acks.getLast? <;> rfl

/-- `s` after the engine has sent bytes of write transactions: SCL and SDA are at `c` and `d`, the ack-waits sampled `acks`,
the events are `es`, `rest` is left of the procedure, and `ab` says that a NACK aborted it (40 R423, R424). -/
def carryOn (c d ab : Bit) (acks : List Bit) (es : List Event) (rest : List Micro) (s : State) : State :=
  { s with
    lines := ⟨c, d, acks.getLastD s.lines.sampled⟩
    traceRev := es.reverse ++ s.traceRev
    env := envAfter s acks.length
    eng := { s.eng with
      pos := ⟨rest, s.eng.pos.product, ab || s.eng.pos.aborted⟩
      nacks := countNacks acks s.eng.nacks
      lastack := lastAck acks s.eng.lastack
      newphase := if ab then .idle else s.eng.newphase
      settle := s.regs.delay } }

section
variable (c d ab : Bit) (acks : List Bit) (es : List Event) (rest : List Micro) (s : State)

@[simp] theorem carryOn_regs : (carryOn c d ab acks es rest s).regs = s.regs := rfl

/-- The answers to come are those after the ones used up. -/
theorem answer_carryOn (k : Nat) : answer (carryOn c d ab acks es rest s) k = answer s (acks.length + k) := by
  simp only [answer, carryOn, envAfter, Nat.add_assoc]

theorem carryOn_carryOn (c' d' ab' : Bit) (acks' : List Bit) (es' : List Event) (rest' : List Micro) :
    carryOn c' d' ab' acks' es' rest' (carryOn c d ab acks es rest s) =
      carryOn c' d' (ab' || ab) (acks ++ acks') (es ++ es') rest' s := by
  cases ab' <;>
    simp [carryOn, envAfter, countNacks, lastAck, List.getLastD_eq_getLast?, List.getLast?_append, Nat.add_assoc,
      Option.getD_or]

end

/-! Each primitive at the head of a procedure, as a `carryOn`: line writes alone use up no answer and count no NACK. -/

theorem carryOn_pStart {s : State} {rest : List Micro} (hb : s.status.busy = true) (h : s.eng.pos.todo = pStart ++ rest) :
    engineTurns startEvents.length s = .next (carryOn false false false [] startEvents rest s) :=
  run_pStart hb h

theorem carryOn_pStop {s : State} {rest : List Micro} (hb : s.status.busy = true) (h : s.eng.pos.todo = pStop ++ rest) :
    engineTurns stopEvents.length s = .next (carryOn true true false [] stopEvents rest s) :=
  run_pStop hb h

theorem carryOn_pWrite {s : State} {rest : List Micro} {src : ByteSrc} {b : Byte} (hb : s.status.busy = true)
    (hs : sourceByte s.fb src = .ok b) (h : s.eng.pos.todo = pWrite src ++ rest) :
    engineTurns (writeEvents b).length s = .next (carryOn false (bitOf b 0) false [] (writeEvents b) rest s) :=
  run_pWrite hb hs h

/-- What follows an ack-wait that read `a` (40 R423, R424): a STOP when it aborts, else the rest of the procedure. -/
def afterAck (abort a : Bit) (rest : List Micro) : List Micro := if a && abort then pStop else rest

theorem carryOn_wAck {s : State} {rest : List Micro} (hb : s.status.busy = true)
    (h : s.eng.pos.todo = pWaitAck .ackSeq ++ rest) :
    engineTurns (ackEvents (answer s 0)).length s =
      .next (carryOn false true (answer s 0 && s.regs.abortOnNack) [answer s 0] (ackEvents (answer s 0))
        (afterAck s.regs.abortOnNack (answer s 0) rest) s) := by
  refine (run_wAck hb h).trans (congrArg _ ?_)
  cases ha : answer s 0 with
  | false => exact noteAckSeq_goesOn (.inl rfl)
  | true =>
    cases hr : s.regs.abortOnNack with
    | false => exact noteAckSeq_goesOn (.inr hr)
    | true => exact noteAckSeq_aborts rfl hr

/-- One byte and its ack-wait (40 R423). -/
theorem carryOn_ackedWrite {s : State} {rest : List Micro} {src : ByteSrc} {b : Byte} (hb : s.status.busy = true)
    (hs : sourceByte s.fb src = .ok b) (h : s.eng.pos.todo = ackedWrite src ++ rest) :
    engineTurns (writeEvents b ++ ackEvents (answer s 0)).length s =
      .next (carryOn false true (answer s 0 && s.regs.abortOnNack) [answer s 0] (writeEvents b ++ ackEvents (answer s 0))
        (afterAck s.regs.abortOnNack (answer s 0) rest) s) := by
  have hwrite := carryOn_pWrite (rest := pWaitAck .ackSeq ++ rest) hb hs (by rw [h, ackedWrite, List.append_assoc])
  have hack := carryOn_wAck (s := carryOn false (bitOf b 0) false [] (writeEvents b) (pWaitAck .ackSeq ++ rest) s) hb rfl
  rw [answer_carryOn, List.length_nil, Nat.zero_add, carryOn_regs, carryOn_carryOn, Bool.or_false, List.nil_append] at hack
  rw [List.length_append, engineTurns_add _ hwrite, hack]

/-- The byte each source stands for, in order. -/
inductive SourcesAre (m : Memory) : List ByteSrc → List Byte → Prop where
  | nil : SourcesAre m [] []
  | cons {src : ByteSrc} {b : Byte} {srcs : List ByteSrc} {bytes : List Byte} :
      sourceByte m src = .ok b → SourcesAre m srcs bytes → SourcesAre m (src :: srcs) (b :: bytes)

/-- A NACK under abort-on-NACK ends the transaction with its byte (40 R424). -/
theorem carryTxn_abort {abort : Bit} {ans : Nat → Bit} {k : Nat} (b : Byte) (bs : List Byte)
    (h : (ans k && abort) = true) : carryTxn abort ans k (b :: bs) = ([(b, ans k)], true) := by
  simp only [carryTxn, h, if_true]

theorem carryTxn_go {abort : Bit} {ans : Nat → Bit} {k : Nat} (b : Byte) (bs : List Byte)
    (h : (ans k && abort) = false) : carryTxn abort ans k (b :: bs) =
      ((b, ans k) :: (carryTxn abort ans (k + 1) bs).1, (carryTxn abort ans (k + 1) bs).2) := by
  simp only [carryTxn, h, Bool.false_eq_true, if_false]

/-- What is left of a procedure after a transaction. -/
def afterTxn (ab : Bit) (rest : List Micro) : List Micro := if ab then [] else rest

/-- The bytes of a transaction and its STOP, by induction on the bytes: each is followed by the next, or by the STOP of an
abort (40 R423 to R426). `ans k` is the answer to the next sample. -/
theorem carryOn_bytes_stop {m : Memory} {srcs : List ByteSrc} {bytes : List Byte} (hsrc : SourcesAre m srcs bytes)
    {ans : Nat → Bit} {k : Nat} {s : State} {rest : List Micro} (hb : s.status.busy = true) (hm : s.fb = m)
    (h : s.eng.pos.todo = srcs.flatMap ackedWrite ++ (pStop ++ rest)) (hans : ∀ j, answer s j = ans (k + j)) :
    let r := carryTxn s.regs.abortOnNack ans k bytes
    engineTurns (ackedEvents r.1 ++ stopEvents).length s =
      .next (carryOn true true r.2 (r.1.map (·.2)) (ackedEvents r.1 ++ stopEvents) (afterTxn r.2 rest) s) := by
  induction hsrc generalizing s k with
  | nil => exact carryOn_pStop hb h
  | @cons src b srcs bytes hsb _ ih =>
    have hbyte := carryOn_ackedWrite (rest := srcs.flatMap ackedWrite ++ (pStop ++ rest)) hb (hm ▸ hsb)
      (by rw [h, List.flatMap_cons, List.append_assoc])
    have h0 : answer s 0 = ans k := hans 0
    rw [h0] at hbyte
    dsimp only
    cases hab : ans k && s.regs.abortOnNack with
    | true =>
      rw [afterAck, hab, if_pos rfl] at hbyte
      have hstop := carryOn_pStop (rest := [])
        (s := carryOn false true true [ans k] (writeEvents b ++ ackEvents (ans k)) pStop s) hb rfl
      rw [carryTxn_abort b bytes hab, ackedEvents_cons, ← List.append_assoc, List.append_assoc, List.length_append,
        engineTurns_add _ hbyte]
      simpa [ackedEvents, afterTxn, carryOn_carryOn] using hstop
    | false =>
      rw [afterAck, hab, if_neg Bool.false_ne_true] at hbyte
      have hrest := ih (k := k + 1)
        (s := carryOn false true false [ans k] (writeEvents b ++ ackEvents (ans k))
          (srcs.flatMap ackedWrite ++ (pStop ++ rest)) s) hb hm rfl
        (fun j => by rw [answer_carryOn, hans, Nat.add_assoc, List.length_singleton])
      rw [carryTxn_go b bytes hab, ackedEvents_cons, ← List.append_assoc, List.append_assoc, List.length_append,
        engineTurns_add _ hbyte]
      simpa [carryOn_carryOn] using hrest

/-- `ms` is a write transaction that sends `bytes`, its address byte first (40 R426). -/
def IsTxn (m : Memory) (ms : List Micro) (bytes : List Byte) : Prop :=
  ∃ a7 srcs vals, ms = wrTxn a7 srcs ∧ SourcesAre m srcs vals ∧ bytes = addressByte a7 0 :: vals

/-- The address byte is the first of the bytes between START and STOP. -/
theorem wrTxn_append (a7 : BitVec 7) (srcs : List ByteSrc) (rest : List Micro) :
    wrTxn a7 srcs ++ rest =
      pStart ++ ((ByteSrc.lit (addressByte a7 0) :: srcs).flatMap ackedWrite ++ (pStop ++ rest)) := by
  simp only [wrTxn, List.flatMap_cons, List.append_assoc]

/-- A whole write transaction, from its START to its STOP (40 R426). -/
theorem carryOn_txn {ms : List Micro} {bytes : List Byte} {ans : Nat → Bit} {k : Nat} {s : State} {rest : List Micro}
    (htxn : IsTxn s.fb ms bytes) (hb : s.status.busy = true) (h : s.eng.pos.todo = ms ++ rest)
    (hans : ∀ j, answer s j = ans (k + j)) :
    let r := carryTxn s.regs.abortOnNack ans k bytes
    engineTurns (txnEvents r.1).length s =
      .next (carryOn true true r.2 (r.1.map (·.2)) (txnEvents r.1) (afterTxn r.2 rest) s) := by
  obtain ⟨a7, srcs, vals, rfl, hsrc, rfl⟩ := htxn
  rw [wrTxn_append] at h
  have hstart := carryOn_pStart hb h
  have hsrcs : SourcesAre s.fb (.lit (addressByte a7 0) :: srcs) (addressByte a7 0 :: vals) := .cons rfl hsrc
  have hbytes := carryOn_bytes_stop hsrcs
    (s := carryOn false false false [] startEvents _ s) (ans := ans) (k := k) (rest := rest) hb rfl rfl
    (fun j => by rw [answer_carryOn, List.length_nil, Nat.zero_add, hans])
  dsimp only at hbytes ⊢
  rw [txnEvents, List.append_assoc, List.length_append, engineTurns_add _ hstart]
  simpa [carryOn_carryOn] using hbytes

/-- A list of write transactions, each with the bytes it sends. -/
inductive AreTxns (m : Memory) : List (List Micro) → List (List Byte) → Prop where
  | nil : AreTxns m [] []
  | cons {ms : List Micro} {bytes : List Byte} {procs : List (List Micro)} {txns : List (List Byte)} :
      IsTxn m ms bytes → AreTxns m procs txns → AreTxns m (ms :: procs) (bytes :: txns)

/-- A NACK that ends a transaction ends the transactions. -/
theorem carryAll_abort {abort : Bit} {ans : Nat → Bit} {k : Nat} (t : List Byte) (ts : List (List Byte))
    (h : (carryTxn abort ans k t).2 = true) : carryAll abort ans k (t :: ts) = ([(carryTxn abort ans k t).1], true) := by
  simp only [carryAll, h, if_true]

theorem carryAll_go {abort : Bit} {ans : Nat → Bit} {k : Nat} (t : List Byte) (ts : List (List Byte))
    (h : (carryTxn abort ans k t).2 = false) : carryAll abort ans k (t :: ts) =
      ((carryTxn abort ans k t).1 :: (carryAll abort ans (k + (carryTxn abort ans k t).1.length) ts).1,
        (carryAll abort ans (k + (carryTxn abort ans k t).1.length) ts).2) := by
  simp only [carryAll, h, Bool.false_eq_true, if_false]

/-- Write transactions one after the other (40 R424): an abort drops those to come. There is at least one, so that the lines
end released. -/
theorem carryOn_txns {m : Memory} {procs : List (List Micro)} {txns : List (List Byte)}
    (htxns : AreTxns m procs txns) (hne : procs ≠ []) {ans : Nat → Bit} {k : Nat} {s : State}
    (hm : s.fb = m) (hb : s.status.busy = true) (h : s.eng.pos.todo = procs.flatten)
    (hans : ∀ j, answer s j = ans (k + j)) :
    let r := carryAll s.regs.abortOnNack ans k txns
    engineTurns (r.1.flatMap txnEvents).length s =
      .next (carryOn true true r.2 (r.1.flatten.map (·.2)) (r.1.flatMap txnEvents) [] s) := by
  induction htxns generalizing s k with
  | nil => exact absurd rfl hne
  | @cons ms bytes procs txns htxn htxns ih =>
    have hfirst := carryOn_txn (rest := procs.flatten) (hm ▸ htxn) hb (by rw [h, List.flatten_cons]) hans
    dsimp only at hfirst ⊢
    cases hab : (carryTxn s.regs.abortOnNack ans k bytes).2 with
    | true =>
      rw [carryAll_abort bytes txns hab]
      rw [hab] at hfirst
      simpa [afterTxn] using hfirst
    | false =>
      rw [carryAll_go bytes txns hab]
      rw [hab, afterTxn, if_neg Bool.false_ne_true] at hfirst
      cases htxns with
      | nil => simpa [carryAll] using hfirst
      | @cons ms' _ procs' _ _ _ =>
        have hrest := ih (List.cons_ne_nil _ _) (k := k + (carryTxn s.regs.abortOnNack ans k bytes).1.length)
          (s := carryOn true true false ((carryTxn s.regs.abortOnNack ans k bytes).1.map (·.2))
            (txnEvents (carryTxn s.regs.abortOnNack ans k bytes).1) (ms' :: procs').flatten s) hm hb rfl
          (fun j => by rw [answer_carryOn, hans, List.length_map, Nat.add_assoc])
        rw [List.flatMap_cons, List.length_append, engineTurns_add _ hfirst]
        simpa [carryOn_carryOn] using hrest

/-- A transaction that was aborted ends with its NACK. -/
theorem carryTxn_getLast?_of_abort {abort : Bit} {ans : Nat → Bit} {k : Nat} {bytes : List Byte}
    (h : (carryTxn abort ans k bytes).2 = true) :
    ((carryTxn abort ans k bytes).1.map (·.2)).getLast? = some true := by
  induction bytes generalizing k with
  | nil => cases h
  | cons b bs ih =>
    cases hab : ans k && abort with
    | true =>
      rw [carryTxn_abort b bs hab]
      simpa using (Bool.and_eq_true_iff.1 hab).1
    | false =>
      rw [carryTxn_go b bs hab] at h ⊢
      rw [List.map_cons, List.getLast?_cons, ih h]
      rfl

theorem carryAll_getLast?_of_abort {abort : Bit} {ans : Nat → Bit} {k : Nat} {txns : List (List Byte)}
    (h : (carryAll abort ans k txns).2 = true) :
    ((carryAll abort ans k txns).1.flatten.map (·.2)).getLast? = some true := by
  induction txns generalizing k with
  | nil => cases h
  | cons t ts ih =>
    cases hab : (carryTxn abort ans k t).2 with
    | true =>
      rw [carryAll_abort t ts hab]
      simpa using carryTxn_getLast?_of_abort hab
    | false =>
      rw [carryAll_go t ts hab] at h ⊢
      rw [List.flatten_cons, List.map_append, List.getLast?_append, ih h]
      rfl

/-- ACK that the commit writes (10 R110): a last answer that aborted the command was a NACK. -/
theorem committedAck_lastAck {ab : Bit} {acks : List Bit} (hlast : ab = true → acks.getLast? = some true) (old : Bit) :
    committedAck ab (lastAck acks none) old = ackAfter acks old := by
  rw [lastAck_eq, ackAfter]
  cases ab with
  | true => rw [hlast rfl]; rfl
  | false => cases acks.getLast? <;> rfl

/-- The commit of a sequencer command of write transactions (40 R424, R425). -/
theorem commit_carried {w : Word} {ms : List Micro} {s : State} {txns : List (List Byte)} :
    commit (carryOn true true (carried s txns).2 ((carried s txns).1.flatten.map (·.2)) ((carried s txns).1.flatMap txnEvents) []
      (accept w ms .none .idle s)) = afterTransactions s txns := by
  have hack := committedAck_lastAck (carryAll_getLast?_of_abort (abort := s.regs.abortOnNack) (ans := answer s) (k := 0)
    (txns := txns)) s.status.ack
  have hnacks := countNacks_zero ((carried s txns).1.flatten.map (·.2))
  simp only [afterTransactions, ← hnacks]
  rw [carried, ← hack]
  cases (carryAll s.regs.abortOnNack (answer s) 0 txns).2 <;> rfl

/-- A sequencer command whose procedure is write transactions, in IDLE: accepted, sent and committed (40 R422 to R426). -/
theorem runsTransactions_of_txns {i : Instr} {s : State} {procs : List (List Micro)} {txns : List (List Byte)}
    (hexec : exec i s = acceptSequencer (encode i) procs.flatten .none s) (hidle : s.status.phase = .idle)
    (hne : procs ≠ []) (htxns : AreTxns s.fb procs txns) : RunsTransactions i s txns := by
  refine ⟨_, hexec.trans (acceptSequencer_of_idle hidle), rfl, ?_⟩
  have hrun := carryOn_txns htxns hne (s := accept (encode i) procs.flatten .none .idle s) (ans := answer s) (k := 0) rfl rfl rfl
    (fun j => by rw [Nat.zero_add]; rfl)
  dsimp only at hrun
  rw [accept_regs] at hrun
  rw [carried, engineTurns_add 1 hrun, engineTurns_succ (engineTurn_commit rfl rfl)]
  exact congrArg Host.Outcome.next commit_carried

/-! ### SNS_CONFIG -/

/-- A sensor register write is one transaction of three bytes (41 R502). -/
theorem isTxn_regTxn (m : Memory) (s : State) (r v : Byte) : IsTxn m (regTxn s r v) (regBytes s r v) :=
  ⟨s.regs.snsAddr, [.lit r, .lit v], [r, v], rfl, .cons rfl (.cons rfl .nil), rfl⟩

/-- Settles O24: the procedure is four register writes, each a write transaction. -/
theorem snsConfigRuns : Obligations.SnsConfigRuns := by
  intro s hidle
  refine runsTransactions_of_txns (procs :=
    [regTxn s s.par.regSmplrtDiv (cfgSmplrtDiv s.regs.snsCfg), regTxn s s.par.regConfig (cfgDlpf s.regs.snsCfg),
      regTxn s s.par.regGyroConfig (cfgGyroRange s.regs.snsCfg), regTxn s s.par.regAccelConfig (cfgAccelRange s.regs.snsCfg)])
    ?_ hidle (List.cons_ne_nil _ _) (.cons (isTxn_regTxn ..) (.cons (isTxn_regTxn ..) (.cons (isTxn_regTxn ..)
      (.cons (isTxn_regTxn ..) .nil))))
  change execSnsConfig s = _
  simp only [execSnsConfig, configProcedure, List.flatten_cons, List.flatten_nil, List.append_nil, List.append_assoc]

end Sys2Proof.Machine

/-! PROOFS of the statements on the host's access to the block (20 R201 to R213): what a host's turn does, what it leaves alone,
and how the host's reads and polls stand beside the engine. -/

namespace Sys2Proof.Machine

/-! ### The host's turn, access by access -/

theorem hostTurn_write {s : State} {off size : Nat} {v : Word} {rest : List HostOp}
    (h : s.host.program = .write off size v :: rest) : hostTurn s = hostWrite off size v (setProgram rest s) := by
  simp [hostTurn, h]

theorem hostTurn_read {s : State} {off size : Nat} {v : Word} {rest : List HostOp}
    (h : s.host.program = .read off size :: rest) (hv : hostRead off size s = .ok v) :
    hostTurn s = .next (noteRead off v (setProgram rest s)) := by
  simp [hostTurn, h, hv]

theorem hostTurn_read_fault {s : State} {off size : Nat} {f : Fault} {rest : List HostOp}
    (h : s.host.program = .read off size :: rest) (hf : hostRead off size s = .error f) : hostTurn s = .fault f := by
  simp [hostTurn, h, hf]

/-- A poll reads STATUS, and stays the next access while the value has BUSY = 1 (30 R311). -/
theorem hostTurn_poll {s : State} {rest : List HostOp} (h : s.host.program = .poll :: rest) :
    hostTurn s = .next { s with
      host := ⟨if s.status.busy then .poll :: rest else rest, (statusOffset, statusWord s.status) :: s.host.reads⟩ } := by
  have hbit : (statusWord s.status).getLsbD 0 = s.status.busy := (statusWord_fields s.status).1
  simp only [hostTurn, h, hbit]
  cases s.status.busy <;> simp [noteRead, setProgram, h]

theorem hostTurn_idle {s : State} (h : s.host.program = []) : hostTurn s = .next s := by
  simp [hostTurn, h]

theorem regRead_dropTurn (s : State) (r : RegName) : regRead (dropTurn s) r = regRead s r := by
  cases r <;> rfl

theorem hostRead_dropTurn (off size : Nat) (s : State) : hostRead off size (dropTurn s) = hostRead off size s := by
  cases hacc : accessReg off size with
  | error f => rw [hostRead_of_error _ hacc, hostRead_of_error _ hacc]
  | ok r => rw [hostRead_of_reg _ hacc, hostRead_of_reg _ hacc, regRead_dropTurn]

/-- Settles O59: the step is the host's turn, and that is the next access of the host's program. -/
theorem stepMakesTheHostsNextAccess : Obligations.StepMakesTheHostsNextAccess := by
  intro s rest hturn
  rw [step_host hturn]
  refine ⟨fun off size v h => ?write, fun off size v h hv => ?read, fun off size f h hf => ?readFault, fun h => ?poll⟩
  case write => exact hostTurn_write (s := dropTurn s) h
  case read => exact hostTurn_read (s := dropTurn s) h ((hostRead_dropTurn off size s).trans hv)
  case readFault => exact hostTurn_read_fault (s := dropTurn s) h ((hostRead_dropTurn off size s).trans hf)
  case poll => exact hostTurn_poll (s := dropTurn s) h

/-! ### The step of a command write -/

theorem submit_of_decode {w : Word} {i : Instr} (s : State) (h : decodeWord w = .ok i) : submit w s = exec i s := by
  simp [submit, h]

theorem hostWrite_command {w : Word} {i : Instr} {s : State} (hb : s.status.busy = false) (h : decodeWord w = .ok i) :
    hostWrite cmdOffset 4 w s = exec i s := by
  rw [hostWrite_of_cmd w rfl hb, submit_of_decode s h]

theorem decodeTableWord_eq_some {nbits w : Nat} {i : Instr} (h : decodeTableWord nbits w = some i) :
    decodeWord (tableWord nbits w) = .ok i := by
  unfold decodeTableWord at h
  split at h
  · cases h; assumption
  · cases h

/-- Placing a command and using up its access and its turn cancel out. -/
theorem setProgram_dropTurn_placeCommand (w : Word) (s : State) :
    setProgram s.host.program (dropTurn (placeCommand w s)) = s := rfl

theorem step_command {s : State} {w : Word} {i : Instr} {rest : List HostOp} (hturn : nextTurn s = .host)
    (h : s.host.program = .write cmdOffset 4 w :: rest) (hb : s.status.busy = false) (hi : decodeWord w = .ok i) :
    step s = exec i (setProgram rest (dropTurn s)) := by
  rw [step_host hturn, hostTurn_write (s := dropTurn s) h, hostWrite_command (s := setProgram rest (dropTurn s)) hb hi]

/-- Settles O6: a CMD write of a legal word is its command, and `withFetchWord` puts such a write next. -/
theorem stepRunsTheDecodedCommand : Obligations.StepRunsTheDecodedCommand := by
  refine ⟨fun s w i rest => step_command, fun s nbits w i hb hi => ?_⟩
  rw [State.withFetchWord, step_command (s := placeCommand (tableWord nbits w) s) (nextTurn_listed rfl) rfl hb
    (decodeTableWord_eq_some hi), setProgram_dropTurn_placeCommand]

/-! ### What the host's accesses change -/

/-- CMD is at its own offset only (10 R104). -/
theorem accessReg_cmd {off size : Nat} (h : accessReg off size = .ok .cmd) : off = cmdOffset := by
  obtain ⟨-, ha, hreg⟩ := accessReg_ok h
  exact offset_of_regAt hreg ha

theorem regWrite_stores (r : RegName) (v : Word) (s : State) :
    regWrite r v s = { s with regs := (regWrite r v s).regs, fb := (regWrite r v s).fb } := by
  cases r <;> rfl

/-- A host write at an offset other than CMD only stores (20 R206). -/
theorem hostWrite_stores {off size : Nat} {v : Word} {s u : State} (hoff : off ≠ cmdOffset)
    (h : hostWrite off size v s = .next u) : u = { s with regs := u.regs, fb := u.fb } := by
  obtain ⟨-, r, hacc, -, ⟨rfl, -⟩ | ⟨-, rfl⟩⟩ := hostWrite_next h
  · exact absurd (accessReg_cmd hacc) hoff
  · exact regWrite_stores r v s

/-- A host's turn that is no write changes the host agent alone; what is left of its program was in its program before. -/
theorem hostTurn_readsOnly {s u : State} (hops : ∀ op ∈ s.host.program.head?, readsOnly op = true)
    (h : hostTurn s = .next u) : u = { s with host := u.host } ∧ u.host.program ⊆ s.host.program := by
  rcases hostTurn_next h with ⟨-, rfl⟩ | ⟨_, _, rest, _, hp, -, rfl⟩ | ⟨_, _, _, rest, hp, -⟩ | ⟨rest, hp, rfl | rfl⟩
  · exact ⟨rfl, List.Subset.refl _⟩
  · exact ⟨rfl, by simp [hp]⟩
  · simp [hp, readsOnly] at hops
  · exact ⟨rfl, List.Subset.refl _⟩
  · exact ⟨rfl, by simp [hp]⟩

/-- Settles O12: reads and polls touch the host agent alone, and only CMD leads to `submit`. -/
theorem hostReadsHaveNoSideEffects : Obligations.HostReadsHaveNoSideEffects := by
  refine ⟨fun s u op rest hp hop h => (hostTurn_readsOnly ?_ h).1, fun _ => rfl, fun s u off size v => hostWrite_stores⟩
  simpa [hp] using hop

/-! ### While BUSY = 1 -/

/-- The first two checks of an access refuse it for its form or its offset (60 R703). -/
theorem accessReg_error {off size : Nat} {f : Fault} (h : accessReg off size = .error f) :
    f = .busError .sizeOrAlignment off ∨ f = .busError .unmapped off := by
  unfold accessReg at h
  split at h
  · cases h; exact .inl rfl
  · split at h <;> cases h
    exact .inr rfl

theorem hostWrite_refused_of_busy {s : State} (hb : s.status.busy = true) (off size : Nat) (v : Word) :
    ∃ c, hostWrite off size v s = .fault (.busError c off) := by
  cases hacc : accessReg off size with
  | error f =>
    rw [hostWrite_of_error v s hacc]
    rcases accessReg_error hacc with rfl | rfl
    · exact ⟨_, rfl⟩
    · exact ⟨_, rfl⟩
  | ok r =>
    cases hro : readOnly r with
    | true => exact ⟨_, hostWrite_of_readOnly v s hacc hro⟩
    | false => exact ⟨_, hostWrite_of_busy v hacc hro hb⟩

/-- Every register but an FB word has a value in every state (70 R802). -/
theorem regRead_answers {r : RegName} (h : ∀ j, r ≠ .fbWord j) (s : State) : ∃ v, regRead s r = .ok v := by
  cases r with
  | fbWord j => exact absurd rfl (h j)
  | _ => exact ⟨_, rfl⟩

/-- A read of a mapped register below the framebuffer is answered (20 R209). -/
theorem hostRead_answers {off : Nat} (ha : off % 4 = 0) (h : off ≤ 0x024 ∨ (0x040 ≤ off ∧ off ≤ 0x058)) (s : State) :
    ∃ v, hostRead off 4 s = .ok v := by
  cases hr : regAt off with
  | none =>
    have hgap := (regAt_eq_none_iff ha).1 hr
    omega
  | some r =>
    rw [hostRead_of_reg s (accessReg_mapped ha hr)]
    refine regRead_answers (fun j hj => ?_) s
    have hoff : off = 0x400 + 4 * j := by rw [offset_of_regAt hr ha, hj, offsetOf]
    omega

theorem hostTurn_keeps_registers_of_busy {s u : State} (hb : s.status.busy = true) (h : hostTurn s = .next u) :
    u.regs = s.regs ∧ u.fb = s.fb := by
  rcases hostTurn_next h with ⟨-, rfl⟩ | ⟨_, _, _, _, -, -, rfl⟩ | ⟨off, size, v, rest, -, hw⟩ | ⟨_, -, rfl | rfl⟩
  case inr.inr.inl =>
    obtain ⟨c, hc⟩ := hostWrite_refused_of_busy (s := setProgram rest s) hb off size v
    cases hc.symm.trans hw
  all_goals exact ⟨rfl, rfl⟩

/-- Settles O11: the checks of an access refuse every write, and neither host nor engine stores into what a command reads. -/
theorem writesAreRefusedWhileBusy : Obligations.WritesAreRefusedWhileBusy := by
  intro s hb
  refine ⟨hostWrite_refused_of_busy hb, fun off ha h => hostRead_answers ha h s,
    fun j hj => hostRead_of_reg s (accessReg_fb hj), fun u hreset h => ?_⟩
  rcases step_next h with ⟨-, h⟩ | ⟨-, h⟩ | ⟨hturn, -⟩
  · exact hostTurn_keeps_registers_of_busy (s := dropTurn s) hb h
  · have hf := engineTurn_frame h
    exact ⟨hf.regs, hf.fb⟩
  · exact absurd hturn hreset

/-! ### The engine does not see the agents -/

/-- A device with other agents around it. -/
def withAgents (host : HostAgent) (turns : List Turn) (s : State) : State := { s with host := host, turns := turns }

theorem device_withAgents (host : HostAgent) (turns : List Turn) (s : State) : device (withAgents host turns s) = device s := rfl

/-- Two states of one device differ in the agents only. -/
theorem eq_withAgents_of_device_eq {s t : State} (h : device t = device s) : t = withAgents t.host t.turns s := by
  cases s
  cases t
  simp_all [device, withAgents]

theorem noteAckSeq_withAgents (host : HostAgent) (turns : List Turn) (s : State) :
    noteAckSeq (withAgents host turns s) = withAgents host turns (noteAckSeq s) := by
  unfold noteAckSeq
  dsimp only
  rw [apply_ite (withAgents host turns)]
  rfl

theorem microStep_withAgents {m : Micro} {s u : State} (host : HostAgent) (turns : List Turn)
    (h : microStep m s = .next u) : microStep m (withAgents host turns s) = .next (withAgents host turns u) := by
  rcases microStep_next h with ⟨v, rfl, rfl⟩ | ⟨v, rfl, rfl⟩ | ⟨src, i, b, rfl, hb, rfl⟩ | ⟨rfl, rfl⟩ | ⟨i, rfl, rfl⟩ |
    ⟨rfl, rfl⟩ | ⟨rfl, rfl⟩ | ⟨k, rfl, rfl⟩
  case inr.inr.inl =>
    have hb' : sourceByte (withAgents host turns s).fb src = .ok b := hb
    simp only [microStep, hb']
    rfl
  case inr.inr.inr.inr.inr.inr.inl => exact congrArg Host.Outcome.next (noteAckSeq_withAgents host turns (scl false s))
  all_goals rfl

theorem engineTurn_withAgents {s u : State} (host : HostAgent) (turns : List Turn) (h : engineTurn s = .next u) :
    engineTurn (withAgents host turns s) = .next (withAgents host turns u) := by
  rcases engineTurn_next h with ⟨hb, rfl⟩ | ⟨hb, htodo, rfl⟩ | ⟨m, rest, hb, htodo, h⟩
  · simp [engineTurn, withAgents, hb]
  · exact engineTurn_commit (s := withAgents host turns s) hb htodo
  · rw [engineTurn_micro (s := withAgents host turns s) hb htodo]
    exact microStep_withAgents host turns h

/-- Of one device the engine makes the same device, whatever the agents (20 R205). -/
theorem engineTurn_of_device_eq {s t u : State} (hd : device t = device s) (h : engineTurn s = .next u) :
    ∃ v, engineTurn t = .next v ∧ device v = device u := by
  rw [eq_withAgents_of_device_eq hd]
  exact ⟨_, engineTurn_withAgents t.host t.turns h, device_withAgents ..⟩

theorem engineTurns_succ_next {n : Nat} {s u : State} (h : engineTurns (n + 1) s = .next u) :
    ∃ s', engineTurn s = .next s' ∧ engineTurns n s' = .next u := by
  unfold engineTurns at h
  split at h
  · exact ⟨_, ‹_›, h⟩
  · cases h
  · cases h

theorem engineTurns_of_device_eq {n : Nat} {s t u : State} (hd : device t = device s) (h : engineTurns n s = .next u) :
    ∃ v, engineTurns n t = .next v ∧ device v = device u := by
  induction n generalizing s t with
  | zero => cases h; exact ⟨t, rfl, hd⟩
  | succ n ih =>
    obtain ⟨s', hs', hrun⟩ := engineTurns_succ_next h
    obtain ⟨t', ht', hd'⟩ := engineTurn_of_device_eq hd hs'
    obtain ⟨v, hv, hdv⟩ := ih hd' hrun
    exact ⟨v, (engineTurns_succ ht').trans hv, hdv⟩

/-! ### Reads and polls between the engine's turns -/

theorem run_succ_next {n : Nat} {s u : State} (h : Host.Core.run Sys2Proof.core (n + 1) s = .next u) :
    ∃ s', step s = .next s' ∧ Host.Core.run Sys2Proof.core n s' = .next u := by
  simp only [Host.Core.run] at h
  split at h
  case h_1 s' hs' => exact ⟨s', hs', h⟩
  case h_2 => cases h
  case h_3 => cases h

/-- By induction on the turns listed: a turn of the host leaves the device as it is, one of the engine is the same turn of the
engine alone. -/
theorem run_readsOnly {ts : List Turn} {s u : State} (hturns : s.turns = ts) (hreset : ∀ t ∈ ts, t ≠ .reset)
    (hops : ∀ op ∈ s.host.program, readsOnly op = true) (h : Host.Core.run Sys2Proof.core ts.length s = .next u) :
    ∃ v, engineTurns (ts.count .engine) s = .next v ∧ device u = device v := by
  induction ts generalizing s with
  | nil => cases h; exact ⟨_, rfl, rfl⟩
  | cons t ts ih =>
    obtain ⟨s', hstep, hrun⟩ := run_succ_next h
    have hnext := nextTurn_listed hturns
    have htail : (dropTurn s).turns = ts := by simp [hturns]
    have hreset' : ∀ t ∈ ts, t ≠ .reset := fun t ht => hreset t (List.mem_cons_of_mem _ ht)
    cases t with
    | reset => exact absurd rfl (hreset .reset List.mem_cons_self)
    | host =>
      rw [step_host hnext] at hstep
      obtain ⟨heq, hsub⟩ := hostTurn_readsOnly (s := dropTurn s) (fun op hop => hops op (List.mem_of_mem_head? hop)) hstep
      have hd : device s = device s' := by rw [heq]; rfl
      obtain ⟨v', hv', hdv'⟩ := ih ((hostTurn_frame hstep).turns.trans htail) hreset' (fun op hop => hops op (hsub hop)) hrun
      obtain ⟨v, hv, hdv⟩ := engineTurns_of_device_eq hd hv'
      exact ⟨v, by simpa using hv, hdv'.trans hdv.symm⟩
    | engine =>
      rw [step_engine hnext] at hstep
      have hf := engineTurn_frame hstep
      have hops' : ∀ op ∈ s'.host.program, readsOnly op = true := by rw [hf.host]; exact hops
      obtain ⟨v', hv', hdv'⟩ := ih (hf.turns.trans htail) hreset' hops' hrun
      obtain ⟨v, hv, hdv⟩ := engineTurns_of_device_eq (t := s) (s := dropTurn s) (n := ts.count .engine + 1) rfl
        ((engineTurns_succ hstep).trans hv')
      exact ⟨v, by simpa using hv, hdv'.trans hdv.symm⟩

/-- Settles O49: the run has the turns listed, and the device is the same without them. -/
theorem hostReadsNeverDisturbTheDevice : Obligations.HostReadsNeverDisturbTheDevice := by
  intro ts s u hreset hops h
  obtain ⟨v', hv', hdv'⟩ := run_readsOnly (ts := ts) (s := { s with turns := ts }) rfl hreset hops h
  obtain ⟨v, hv, hdv⟩ := engineTurns_of_device_eq (t := s) (s := { s with turns := ts }) rfl hv'
  exact ⟨v, hv, hdv'.trans hdv.symm⟩

/-! ### A host that polls after each command -/

theorem polledProgram_write {p : Bool} {off size : Nat} {v : Word} {rest : List HostOp} :
    polledProgram p (.write off size v :: rest) = true ↔ p = false ∧ polledProgram (off == cmdOffset) rest = true := by
  simp [polledProgram]

/-- A program fit for a block that may be busy is fit for an idle one. -/
theorem polledProgram_idle {p : Bool} {ops : List HostOp} (h : polledProgram p ops = true) :
    polledProgram false ops = true := by
  induction ops with
  | nil => rfl
  | cons op ops ih =>
    cases op with
    | read off size => exact ih h
    | poll => exact h
    | write off size v => exact polledProgram_write.2 ⟨rfl, (polledProgram_write.1 h).2⟩

theorem polledProgram_of_imp {p q : Bool} {ops : List HostOp} (hpq : q = true → p = true)
    (h : polledProgram p ops = true) : polledProgram q ops = true := by
  cases q with
  | false => exact polledProgram_idle h
  | true => exact hpq rfl ▸ h

theorem submit_host {w : Word} {s u : State} (h : submit w s = .next u) : u.host = s.host := by
  rcases submit_cases w s with ⟨c, hc⟩ | ⟨i, ms, p, ph, -, ha⟩
  · cases hc.symm.trans h; rfl
  · cases ha.symm.trans h; rfl

theorem hostWrite_host {off size : Nat} {v : Word} {s u : State} (h : hostWrite off size v s = .next u) :
    u.host = s.host := by
  obtain ⟨-, r, -, -, ⟨-, hsub⟩ | ⟨-, rfl⟩⟩ := hostWrite_next h
  · exact submit_host hsub
  · rw [regWrite_stores]

/-- A write that leaves the block busy was one to CMD (20 R206, R209). -/
theorem hostWrite_busy {off size : Nat} {v : Word} {s u : State} (h : hostWrite off size v s = .next u)
    (hb : u.status.busy = true) : off = cmdOffset := by
  obtain ⟨hidle, -⟩ := hostWrite_next h
  refine Decidable.byContradiction fun hoff => ?_
  have hstatus : u.status = s.status := by rw [hostWrite_stores hoff h]
  rw [hstatus, hidle] at hb
  cases hb

/-- The engine starts no command. -/
theorem engineTurn_busy {s u : State} (h : engineTurn s = .next u) (hb : u.status.busy = true) : s.status.busy = true := by
  rcases engineTurn_next h with ⟨-, rfl⟩ | ⟨hbusy, -, -⟩ | ⟨_, _, hbusy, -, -⟩
  · exact hb
  · exact hbusy
  · exact hbusy

theorem hostTurn_keeps_polledProgram {s u : State} (hs : polledProgram s.status.busy s.host.program = true)
    (h : hostTurn s = .next u) : polledProgram u.status.busy u.host.program = true := by
  cases hp : s.host.program with
  | nil => cases (hostTurn_idle hp).symm.trans h; exact hs
  | cons op rest =>
    rw [hp] at hs
    cases op with
    | read off size =>
      cases hv : hostRead off size s with
      | ok v => cases (hostTurn_read hp hv).symm.trans h; exact hs
      | error f => cases (hostTurn_read_fault hp hv).symm.trans h
    | write off size v =>
      rw [hostTurn_write hp] at h
      rw [hostWrite_host h]
      exact polledProgram_of_imp (fun hb => beq_iff_eq.2 (hostWrite_busy h hb)) (polledProgram_write.1 hs).2
    | poll =>
      cases (hostTurn_poll hp).symm.trans h
      cases hb : s.status.busy <;> simpa [hb, polledProgram] using hs

/-- A read is never refused for a busy block (20 R209). -/
theorem hostRead_ne_busy (off size o : Nat) (s : State) : hostRead off size s ≠ .error (.busError .busy o) := by
  cases hacc : accessReg off size with
  | error f =>
    rw [hostRead_of_error s hacc]
    rcases accessReg_error hacc with rfl | rfl <;> simp
  | ok r =>
    rw [hostRead_of_reg s hacc]
    exact regRead_ne_busError s r .busy o

/-- An idle block never answers a write with the BusError of a busy one (20 R209). -/
theorem hostWrite_ne_busy {s : State} (hb : s.status.busy = false) (off size o : Nat) (v : Word) :
    hostWrite off size v s ≠ .fault (.busError .busy o) := by
  cases hacc : accessReg off size with
  | error f =>
    rw [hostWrite_of_error v s hacc]
    rcases accessReg_error hacc with rfl | rfl <;> simp
  | ok r =>
    cases hro : readOnly r with
    | true => simp [hostWrite_of_readOnly v s hacc hro]
    | false =>
      obtain ⟨t, ht⟩ := hostWrite_performed v hacc hro hb
      simp [ht]

theorem hostTurn_ne_busy {s : State} (hs : polledProgram s.status.busy s.host.program = true) (o : Nat) :
    hostTurn s ≠ .fault (.busError .busy o) := by
  cases hp : s.host.program with
  | nil => simp [hostTurn_idle hp]
  | cons op rest =>
    rw [hp] at hs
    cases op with
    | read off size =>
      cases hv : hostRead off size s with
      | ok v => simp [hostTurn_read hp hv]
      | error f =>
        have hf : f ≠ .busError .busy o := fun hf => hostRead_ne_busy off size o s (hf ▸ hv)
        simpa [hostTurn_read_fault hp hv] using hf
    | write off size v =>
      rw [hostTurn_write hp]
      exact hostWrite_ne_busy (s := setProgram rest s) (polledProgram_write.1 hs).1 off size o v
    | poll => simp [hostTurn_poll hp]

/-- The engine stops at an unwritten FB byte only (70 R804). -/
theorem engineTurn_ne_busError (s : State) (c : BusCause) (o : Nat) : engineTurn s ≠ .fault (.busError c o) := by
  cases hb : s.status.busy with
  | false => simp [engineTurn, hb]
  | true =>
    cases htodo : s.eng.pos.todo with
    | nil => simp [engineTurn_commit hb htodo]
    | cons m rest =>
      rw [engineTurn_micro hb htodo]
      cases m with
      | sdaBit src i =>
        cases src with
        | lit b => simp [microStep, sourceByte]
        | fb j => cases hj : s.fb.read j <;> simp [microStep, sourceByte, hj]
      | _ => simp [microStep]

/-- Settles O50: the host writes only when it has seen BUSY = 0, and neither the engine nor a reset sets BUSY. -/
theorem pollingHostNeverMeetsBusy : Obligations.PollingHostNeverMeetsBusy := by
  intro s hs
  refine ⟨fun off => ?noFault, fun u h => ?kept⟩
  case noFault =>
    cases hturn : nextTurn s with
    | host => rw [step_host hturn]; exact hostTurn_ne_busy (s := dropTurn s) hs off
    | engine => rw [step_engine hturn]; exact engineTurn_ne_busError (dropTurn s) .busy off
    | reset => simp [step_reset hturn]
  case kept =>
    rcases step_next h with ⟨-, h⟩ | ⟨-, h⟩ | ⟨-, rfl⟩
    · exact hostTurn_keeps_polledProgram (s := dropTurn s) hs h
    · rw [(engineTurn_frame h).host]
      exact polledProgram_of_imp (engineTurn_busy h) hs
    · exact polledProgram_of_imp (fun hb => Bool.noConfusion hb) hs

end Sys2Proof.Machine

/-! PROOFS of the statements on the encoding of commands (30): each row of the opcode map against the words of its format, the
round trips of decoder and encoder that follow, and the checks of a submission in their order. -/

namespace Sys2Proof

/-! ### The rows of the opcode map -/

/-- The opcodes of R305 are 13 different ones. -/
theorem pairwise_ops : opcodeMap.Pairwise fun a b => a.op ≠ b.op := by decide

theorem eq_of_op_eq {r r' : Row} (hr : r ∈ opcodeMap) (hr' : r' ∈ opcodeMap) (h : r.op = r'.op) : r = r' :=
  List.Pairwise.forall_of_forall_of_flip (R := fun a b => a.op = b.op → a = b) (fun _ _ _ => rfl)
    (pairwise_ops.imp fun hne heq => absurd heq hne) (pairwise_ops.imp fun hne heq => absurd heq.symm hne) hr hr' h

/-- Every row compares the whole of OP, and with its own opcode. -/
theorem fieldOp_mask_pattern : ∀ r ∈ opcodeMap, fieldOp r.mask = BitVec.allOnes 8 ∧ fieldOp r.pattern = r.op := by decide

/-- No row asks for a bit that it does not compare. -/
theorem pattern_and_mask : ∀ r ∈ opcodeMap, r.pattern &&& r.mask = r.pattern := by decide

theorem selects_iff (r : Row) (w : Word) : r.selects w = true ↔ w &&& r.mask = r.pattern := beq_iff_eq

/-- The row that a word selects has the word's opcode. -/
theorem fieldOp_of_selects {r : Row} {w : Word} (hr : r ∈ opcodeMap) (h : r.selects w = true) : fieldOp w = r.op := by
  obtain ⟨hmask, hpattern⟩ := fieldOp_mask_pattern r hr
  calc fieldOp w = fieldOp w &&& fieldOp r.mask := by rw [hmask, BitVec.and_allOnes]
    _ = fieldOp (w &&& r.mask) := BitVec.extractLsb'_and.symm
    _ = r.op := by rw [(selects_iff r w).1 h, hpattern]

/-- A word selects one row at most (30 R305). -/
theorem eq_of_selects {r r' : Row} {w : Word} (hr : r ∈ opcodeMap) (hr' : r' ∈ opcodeMap) (h : r.selects w = true)
    (h' : r'.selects w = true) : r = r' :=
  eq_of_op_eq hr hr' ((fieldOp_of_selects hr h).symm.trans (fieldOp_of_selects hr' h'))

/-- Settles O3: two rows that a word selects have its opcode, and no two rows share one. -/
theorem noWordSelectsTwoRows : Obligations.NoWordSelectsTwoRows := by
  refine pairwise_ops.imp_of_mem fun ha hb hne w hw => ?_
  obtain ⟨hwa, hwb⟩ := hw
  exact hne ((fieldOp_of_selects ha hwa).symm.trans (fieldOp_of_selects hb hwb))

/-! ### The decoder by its rows (30 R305, R306) -/

/-- A word that selects a row decodes to the command of that row. -/
theorem decodeWord_of_selects {r : Row} {w : Word} (hr : r ∈ opcodeMap) (h : r.selects w = true) :
    decodeWord w = .ok (r.build w) := by
  cases hfind : opcodeMap.find? (·.selects w) with
  | none => exact absurd h (List.find?_eq_none.1 hfind r hr)
  | some r' =>
    have hsel : r'.selects w = true := List.find?_some (p := fun r => Row.selects r w) hfind
    have hsame : r' = r := eq_of_selects (List.mem_of_find?_eq_some hfind) hr hsel h
    simp [decodeWord, hfind, hsame]

theorem decodeWord_of_noRow {w : Word} (h : ∀ r ∈ opcodeMap, ¬r.selects w = true) :
    decodeWord w = .error (if opcodeMap.any (·.op == fieldOp w) then .mustBeZeroBit else .unknownOp) := by
  simp [decodeWord, List.find?_eq_none.2 h]

theorem decodeWord_of_unlistedOp {w : Word} (h : ∀ r ∈ opcodeMap, ¬r.selects w = true)
    (hop : ∀ r ∈ opcodeMap, r.op ≠ fieldOp w) : decodeWord w = .error .unknownOp := by
  have hany : ¬opcodeMap.any (·.op == fieldOp w) = true := by simpa using hop
  rw [decodeWord_of_noRow h, if_neg hany]

theorem decodeWord_of_listedOp {w : Word} (h : ∀ r ∈ opcodeMap, ¬r.selects w = true)
    (hop : ∃ r ∈ opcodeMap, r.op = fieldOp w) : decodeWord w = .error .mustBeZeroBit := by
  have hany : opcodeMap.any (·.op == fieldOp w) = true := by simpa using hop
  rw [decodeWord_of_noRow h, if_pos hany]

/-- What decodes selects a row, and is that row's command. -/
theorem decodeWord_eq_ok_iff {w : Word} {i : Instr} :
    decodeWord w = .ok i ↔ ∃ r ∈ opcodeMap, r.selects w = true ∧ r.build w = i := by
  constructor
  · intro h
    by_cases hrow : ∃ r ∈ opcodeMap, r.selects w = true
    · obtain ⟨r, hr, hsel⟩ := hrow
      exact ⟨r, hr, hsel, Except.ok.inj ((decodeWord_of_selects hr hsel).symm.trans h)⟩
    · cases (decodeWord_of_noRow fun r hr hsel => hrow ⟨r, hr, hsel⟩).symm.trans h
  · rintro ⟨r, hr, hsel, rfl⟩
    exact decodeWord_of_selects hr hsel

/-! ### The fields of a format's word (30 R303, R304) -/

theorem fieldByte_formatB (op byte : Byte) : fieldByte (formatB op byte) = byte := by
  simp (disch := decide) only [fieldByte, formatB, BitVec.extractLsb'_append_eq_of_add_le, BitVec.extractLsb'_eq_self]

theorem fieldAck_formatR (op : Byte) (ack : BitVec 1) : fieldAck (formatR op ack) = ack := by
  simp (disch := decide) only [fieldAck, formatR, BitVec.extractLsb'_append_eq_of_add_le, BitVec.extractLsb'_eq_self]

theorem fieldLen_formatL (op : Byte) (len : BitVec 11) : fieldLen (formatL op len) = len := by
  simp (disch := decide) only [fieldLen, formatL, BitVec.extractLsb'_append_eq_of_add_le, BitVec.extractLsb'_eq_self]

theorem fields_formatC (op : Byte) (page : BitVec 3) (col : BitVec 7) :
    fieldPage (formatC op page col) = page ∧ fieldCol (formatC op page col) = col := by
  simp (disch := decide) only [fieldPage, fieldCol, formatC, BitVec.extractLsb'_append_eq_of_add_le,
    BitVec.extractLsb'_append_eq_of_le]
  simp

theorem fields_formatW (op : Byte) (cs ce : BitVec 7) (ps pe : BitVec 3) :
    fieldCs (formatW op cs ce ps pe) = cs ∧ fieldCe (formatW op cs ce ps pe) = ce ∧
      fieldPs (formatW op cs ce ps pe) = ps ∧ fieldPe (formatW op cs ce ps pe) = pe := by
  simp (disch := decide) only [fieldCs, fieldCe, fieldPs, fieldPe, formatW, BitVec.extractLsb'_append_eq_of_add_le,
    BitVec.extractLsb'_append_eq_of_le]
  simp

/-- Every command is what a row of the map builds from the command's word. -/
theorem build_encode (i : Instr) : ∃ r ∈ opcodeMap, r.build (encode i) = i := by
  have row : ∀ {k : Nat} {r : Row}, opcodeMap[k]? = some r → r.build (encode i) = i →
      ∃ r ∈ opcodeMap, r.build (encode i) = i := fun hk h => ⟨_, List.mem_of_getElem? hk, h⟩
  cases i with
  | start => exact row (k := 0) rfl rfl
  | stop => exact row (k := 1) rfl rfl
  | writeByte byte => exact row (k := 2) rfl (congrArg Instr.writeByte (fieldByte_formatB _ byte))
  | waitAck => exact row (k := 3) rfl rfl
  | readByte ack => exact row (k := 4) rfl (congrArg Instr.readByte (fieldAck_formatR _ ack))
  | snsWake => exact row (k := 5) rfl rfl
  | snsConfig => exact row (k := 6) rfl rfl
  | snsRead => exact row (k := 7) rfl rfl
  | dspInit => exact row (k := 8) rfl rfl
  | dspSetWindow cs ce ps pe =>
    obtain ⟨hcs, hce, hps, hpe⟩ := fields_formatW 0x21 cs ce ps pe
    exact row (k := 9) rfl (by simp only [encode, hcs, hce, hps, hpe])
  | dspWriteFrame len => exact row (k := 10) rfl (congrArg Instr.dspWriteFrame (fieldLen_formatL _ len))
  | dspPutchar byte => exact row (k := 11) rfl (congrArg Instr.dspPutchar (fieldByte_formatB _ byte))
  | dspSetCursor page col =>
    obtain ⟨hpage, hcol⟩ := fields_formatC 0x24 page col
    exact row (k := 12) rfl (by simp only [encode, hpage, hcol])

/-! ### A format's word from the fields of any word

The fields of a format are the bits that the masks of its rows leave free, and all its other bits below OP are 0: so a bit of
the word is a bit of OP, or `w`'s own where the mask is 0, or 0. -/

theorem formatN_eq_or (op : Byte) (w : Word) : formatN op = (op ++ 0#24) ||| (w &&& ~~~0xFFFFFFFF#32) := by
  simp [formatN]

theorem formatB_eq_or (op : Byte) (w : Word) :
    formatB op (fieldByte w) = (op ++ 0#24) ||| (w &&& ~~~0xFFFFFF00#32) := by
  apply BitVec.eq_of_getLsbD_eq
  intro i hi
  have hfree : (~~~0xFFFFFF00#32).getLsbD i = decide (i < 8) := by
    revert i; decide
  simp only [formatB, fieldByte, BitVec.getLsbD_append, BitVec.getLsbD_extractLsb', BitVec.getLsbD_or,
    BitVec.getLsbD_and, BitVec.getLsbD_zero, hfree]
  grind

theorem formatR_eq_or (op : Byte) (w : Word) :
    formatR op (fieldAck w) = (op ++ 0#24) ||| (w &&& ~~~0xFFFFFFFE#32) := by
  apply BitVec.eq_of_getLsbD_eq
  intro i hi
  have hfree : (~~~0xFFFFFFFE#32).getLsbD i = decide (i < 1) := by
    revert i; decide
  simp only [formatR, fieldAck, BitVec.getLsbD_append, BitVec.getLsbD_extractLsb', BitVec.getLsbD_or,
    BitVec.getLsbD_and, BitVec.getLsbD_zero, hfree]
  grind

theorem formatC_eq_or (op : Byte) (w : Word) :
    formatC op (fieldPage w) (fieldCol w) = (op ++ 0#24) ||| (w &&& ~~~0xFFFFF880#32) := by
  apply BitVec.eq_of_getLsbD_eq
  intro i hi
  have hfree : (~~~0xFFFFF880#32).getLsbD i = decide (i < 7 ∨ 8 ≤ i ∧ i < 11) := by
    revert i; decide
  simp only [formatC, fieldPage, fieldCol, BitVec.getLsbD_append, BitVec.getLsbD_extractLsb', BitVec.getLsbD_or,
    BitVec.getLsbD_and, BitVec.getLsbD_zero, hfree]
  grind

theorem formatW_eq_or (op : Byte) (w : Word) :
    formatW op (fieldCs w) (fieldCe w) (fieldPs w) (fieldPe w) = (op ++ 0#24) ||| (w &&& ~~~0xFF888080#32) := by
  apply BitVec.eq_of_getLsbD_eq
  intro i hi
  have hfree : (~~~0xFF888080#32).getLsbD i = decide (i < 7 ∨ 8 ≤ i ∧ i < 15 ∨ 16 ≤ i ∧ i < 19 ∨ 20 ≤ i ∧ i < 23) := by
    revert i; decide
  simp only [formatW, fieldCs, fieldCe, fieldPs, fieldPe, BitVec.getLsbD_append, BitVec.getLsbD_extractLsb', BitVec.getLsbD_or,
    BitVec.getLsbD_and, BitVec.getLsbD_zero, hfree]
  grind

theorem formatL_eq_or (op : Byte) (w : Word) :
    formatL op (fieldLen w) = (op ++ 0#24) ||| (w &&& ~~~0xFFFFF800#32) := by
  apply BitVec.eq_of_getLsbD_eq
  intro i hi
  have hfree : (~~~0xFFFFF800#32).getLsbD i = decide (i < 11) := by
    revert i; decide
  simp only [formatL, fieldLen, BitVec.getLsbD_append, BitVec.getLsbD_extractLsb', BitVec.getLsbD_or,
    BitVec.getLsbD_and, BitVec.getLsbD_zero, hfree]
  grind

/-- The word of the command that a row builds from `w`: the row's pattern, and `w` in the bits that the row does not
compare. -/
theorem encode_build (w : Word) : ∀ r ∈ opcodeMap, encode (r.build w) = r.pattern ||| (w &&& ~~~r.mask) := by
  simp only [opcodeMap, List.forall_mem_cons]
  exact ⟨formatN_eq_or 0x01 w, formatN_eq_or 0x02 w, formatB_eq_or 0x03 w, formatN_eq_or 0x04 w, formatR_eq_or 0x05 w,
    formatN_eq_or 0x10 w, formatN_eq_or 0x11 w, formatN_eq_or 0x12 w, formatN_eq_or 0x20 w, formatW_eq_or 0x21 w,
    formatL_eq_or 0x22 w, formatB_eq_or 0x23 w, formatC_eq_or 0x24 w, List.forall_mem_nil _⟩

/-! ### The round trips -/

/-- A word that has a row's pattern in the bits that the row compares selects it. -/
theorem selects_pattern_or {r : Row} (hr : r ∈ opcodeMap) (w : Word) :
    r.selects (r.pattern ||| (w &&& ~~~r.mask)) = true := by
  have hfree : r.mask &&& (w &&& ~~~r.mask) = 0#32 := by
    rw [BitVec.and_comm w, ← BitVec.and_assoc, BitVec.and_not_self]
    exact BitVec.zero_and
  rw [selects_iff, BitVec.and_comm, BitVec.and_or_distrib_left, hfree, BitVec.or_zero, BitVec.and_comm,
    pattern_and_mask r hr]

/-- A word that selects a row is the word of the command which the row builds from it. -/
theorem encode_build_of_selects {r : Row} {w : Word} (hr : r ∈ opcodeMap) (h : r.selects w = true) :
    encode (r.build w) = w :=
  calc encode (r.build w) = (w &&& r.mask) ||| (w &&& ~~~r.mask) := by rw [encode_build w r hr, (selects_iff r w).1 h]
    _ = w := by rw [← BitVec.and_or_distrib_left, BitVec.or_not_self, BitVec.and_allOnes]

/-- Settles O1: the word of a command selects the row that builds the command from it. -/
theorem decodeOfEncode : Obligations.DecodeOfEncode := by
  intro i
  obtain ⟨r, hr, hbuild⟩ := build_encode i
  have hword : encode i = r.pattern ||| (encode i &&& ~~~r.mask) := by
    simpa only [hbuild] using encode_build (encode i) r hr
  have hsel : r.selects (encode i) = true := hword ▸ selects_pattern_or hr (encode i)
  exact decodeWord_eq_ok_iff.2 ⟨r, hr, hsel, hbuild⟩

/-- Settles O2: the word selects the row of its command. -/
theorem encodeOfDecode : Obligations.EncodeOfDecode := by
  intro w i h
  obtain ⟨r, hr, hsel, rfl⟩ := decodeWord_eq_ok_iff.1 h
  exact encode_build_of_selects hr hsel

/-- Settles O4: each word is the encoding of its command. -/
theorem wordsOfTheVectorsDecode : Obligations.WordsOfTheVectorsDecode :=
  ⟨decodeOfEncode .start, decodeOfEncode .stop, decodeOfEncode (.writeByte 0xA5), decodeOfEncode .waitAck,
    decodeOfEncode (.readByte 1), decodeOfEncode .snsRead, decodeOfEncode (.dspSetWindow 5 100 2 3),
    decodeOfEncode (.dspWriteFrame 1024), decodeOfEncode (.dspSetCursor 2 5)⟩

end Sys2Proof

namespace Sys2Proof.Machine

/-! ### Submitting a word -/

theorem submit_of_refusal {w : Word} {e : DecodeRefusal} (s : State) (h : decodeWord w = .error e) :
    submit w s = .next (cmdError .illegal s) := by
  simp [submit, h]

theorem submit_of_selects {r : Row} {w : Word} (s : State) (hr : r ∈ opcodeMap) (h : r.selects w = true) :
    submit w s = exec (r.build w) s := submit_of_decode s (decodeWord_of_selects hr h)

/-- A host write to CMD while BUSY = 0 is the submission of its word (10 R115). -/
theorem hostWrite_cmd_notBusy (w : Word) {s : State} (hb : s.status.busy = false) : hostWrite 0x00C 4 w s = submit w s :=
  hostWrite_of_cmd w rfl hb

/-- Settles O5: without a row the decoder refuses the word, by its opcode or, where that is listed, by a bit. -/
theorem illegalWordIsRejected : Obligations.IllegalWordIsRejected := by
  refine ⟨rfl, fun w s => hostWrite_cmd_notBusy w, fun w s hw => ?_⟩
  have hrow : ∀ r ∈ opcodeMap, ¬r.selects w = true := fun r hr hsel => hw r hr ((selects_iff r w).1 hsel)
  by_cases hop : ∃ r ∈ opcodeMap, r.op = fieldOp w
  · have hdec := decodeWord_of_listedOp hrow hop
    exact ⟨submit_of_refusal s hdec, .inr ⟨hdec, hop⟩⟩
  · have hops : ∀ r ∈ opcodeMap, r.op ≠ fieldOp w := fun r hr h => hop ⟨r, hr, h⟩
    have hdec := decodeWord_of_unlistedOp hrow hops
    exact ⟨submit_of_refusal s hdec, .inl ⟨hdec, hops⟩⟩

/-! ### The checks of a submission (30 R312) -/

theorem acceptRaw_of_idle {w ms p ph} {s : State} (h : s.status.phase = .idle) :
    acceptRaw w ms p ph s = .next (cmdError .seq s) := if_pos h

theorem acceptSequencer_of_phase {w ms p} {s : State} (h : s.status.phase ≠ .idle) :
    acceptSequencer w ms p s = .next (cmdError .seq s) := if_pos h

theorem frameInvalid_iff (len chunk : BitVec 11) :
    frameInvalid len chunk = true ↔ len ≠ 1024 ∨ chunk = 0 ∨ 1024 < chunk.toNat := by
  simp [frameInvalid, or_assoc]

theorem exec_dspWriteFrame_of_invalid {len : BitVec 11} {s : State} (hidle : s.status.phase = .idle)
    (h : len ≠ 1024 ∨ s.regs.chunk = 0 ∨ 1024 < s.regs.chunk.toNat) :
    exec (.dspWriteFrame len) s = .next (cmdError .inval s) := if_pos ⟨hidle, (frameInvalid_iff ..).2 h⟩

theorem exec_dspWriteFrame_of_phase {len : BitVec 11} {s : State} (h : s.status.phase ≠ .idle) :
    exec (.dspWriteFrame len) s = .next (cmdError .seq s) :=
  (if_neg fun hinv => h hinv.1).trans (acceptSequencer_of_phase h)

theorem exec_dspWriteFrame_of_valid {len : BitVec 11} {s : State} (hidle : s.status.phase = .idle)
    (h : ¬(len ≠ 1024 ∨ s.regs.chunk = 0 ∨ 1024 < s.regs.chunk.toNat)) :
    exec (.dspWriteFrame len) s = .next (accept (encode (.dspWriteFrame len)) (frameProcedure s) .none .idle s) :=
  (if_neg fun hinv => h ((frameInvalid_iff ..).1 hinv.2)).trans (acceptSequencer_of_idle hidle)

/-- Settles O34: CHUNK.SIZE is 0 as a number only where it is 0. -/
theorem frameOfWrongLengthIsRejected : Obligations.FrameOfWrongLengthIsRejected := by
  intro s len hidle hwrong
  have hchunk : s.regs.chunk.toNat = 0 ↔ s.regs.chunk = 0 := ⟨fun h => BitVec.eq_of_toNat_eq h, fun h => h ▸ rfl⟩
  rw [hchunk] at hwrong
  exact exec_dspWriteFrame_of_invalid hidle hwrong

/-- The checks that the command of row `r` passes before it is accepted, by the row's class and opcode. -/
inductive ChecksOfRow (r : Row) (w : Word) (s : State) : Prop
  | start {ms p ph} (hcls : r.cls = .raw) (hop : r.op = 0x01)
      (hexec : exec (r.build w) s = .next (accept (encode (r.build w)) ms p ph s))
  | raw {ms p ph} (hcls : r.cls = .raw) (hstart : r.op ≠ 0x01) (hframe : r.op ≠ 0x22)
      (hexec : exec (r.build w) s = acceptRaw (encode (r.build w)) ms p ph s)
  | sequencer {ms p} (hcls : r.cls = .sequencer) (hframe : r.op ≠ 0x22)
      (hexec : exec (r.build w) s = acceptSequencer (encode (r.build w)) ms p s)
  | frame (hcls : r.cls = .sequencer) (hop : r.op = 0x22) (hbuild : r.build w = .dspWriteFrame (fieldLen w))

/-- Each row's command goes through the checks of its class. -/
theorem checksOfRow (w : Word) (s : State) : ∀ r ∈ opcodeMap, ChecksOfRow r w s := by
  simp only [opcodeMap, List.forall_mem_cons]
  exact ⟨.start rfl rfl rfl, .raw rfl (by decide) (by decide) rfl, .raw rfl (by decide) (by decide) rfl,
    .raw rfl (by decide) (by decide) rfl, .raw rfl (by decide) (by decide) rfl, .sequencer rfl (by decide) rfl,
    .sequencer rfl (by decide) rfl, .sequencer rfl (by decide) rfl, .sequencer rfl (by decide) rfl,
    .sequencer rfl (by decide) rfl, .frame rfl rfl rfl, .sequencer rfl (by decide) rfl, .sequencer rfl (by decide) rfl,
    List.forall_mem_nil _⟩

/-- What 30 R312 says of an accepted word: BUSY, the engine loaded with it, and nothing else changed. -/
theorem accepted_of_exec {i : Instr} {w : Word} {ms : List Micro} {p : Product} {ph : Phase} {s : State}
    (h : exec i s = .next (accept w ms p ph s)) :
    ∃ t, exec i s = .next t ∧ acceptedFrom s t ∧ t.eng.cmd = some w ∧ t.eng.nacks = 0 ∧ t.eng.lastack = none ∧
      t.eng.pos.aborted = false :=
  ⟨_, h, rfl, rfl, rfl, rfl, rfl⟩

/-- Settles O8: the checks of the row's class, and of the frame's length and chunk size where the row has them. -/
theorem acceptanceFollowsTheChecks : Obligations.AcceptanceFollowsTheChecks := by
  intro w s
  refine ⟨hostWrite_cmd_notBusy w, ?illegal, fun r hr hw => ?legal⟩
  case illegal => rintro (h | h) <;> exact submit_of_refusal s h
  case legal =>
    have hsel : r.selects w = true := (selects_iff r w).2 hw
    have hword : encode (r.build w) = w := encode_build_of_selects hr hsel
    rw [submit_of_selects s hr hsel]
    cases checksOfRow w s r hr with
    | start hcls hop hexec =>
      rw [hword] at hexec
      have hseq : r.cls ≠ .sequencer := by simp [hcls]
      have hframe : r.op ≠ 0x22 := by simp [hop]
      rw [if_neg fun h => h.2.1 hop, if_neg fun h => hseq h.1, if_neg fun h => hframe h.1]
      exact accepted_of_exec hexec
    | raw hcls hstart hframe hexec =>
      rw [hword] at hexec
      have hseq : r.cls ≠ .sequencer := by simp [hcls]
      by_cases hidle : s.status.phase = .idle
      · rw [if_pos ⟨hcls, hstart, hidle⟩]
        exact hexec.trans (acceptRaw_of_idle hidle)
      · rw [if_neg fun h => hidle h.2.2, if_neg fun h => hseq h.1, if_neg fun h => hframe h.1]
        exact accepted_of_exec (hexec.trans (acceptRaw_of_phase hidle))
    | sequencer hcls hframe hexec =>
      rw [hword] at hexec
      have hraw : r.cls ≠ .raw := by simp [hcls]
      rw [if_neg fun h => hraw h.1]
      by_cases hidle : s.status.phase = .idle
      · rw [if_neg fun h => h.2 hidle, if_neg fun h => hframe h.1]
        exact accepted_of_exec (hexec.trans (acceptSequencer_of_idle hidle))
      · rw [if_pos ⟨hcls, hidle⟩]
        exact hexec.trans (acceptSequencer_of_phase hidle)
    | frame hcls hop hbuild =>
      rw [hbuild] at hword ⊢
      have hraw : r.cls ≠ .raw := by simp [hcls]
      rw [if_neg fun h => hraw h.1]
      by_cases hidle : s.status.phase = .idle
      · rw [if_neg fun h => h.2 hidle]
        by_cases hwrong : fieldLen w ≠ 1024 ∨ s.regs.chunk = 0 ∨ 1024 < s.regs.chunk.toNat
        · rw [if_pos ⟨hop, hwrong⟩]
          exact exec_dspWriteFrame_of_invalid hidle hwrong
        · rw [if_neg fun h => hwrong h.2]
          exact accepted_of_exec ((exec_dspWriteFrame_of_valid hidle hwrong).trans (by rw [hword]))
      · rw [if_pos ⟨hcls, hidle⟩]
        exact exec_dspWriteFrame_of_phase hidle

end Sys2Proof.Machine

/-! PROOFS of the statements on the bus primitives (40): the commands out of sequence, the runs of the raw commands and of the
sequencer commands, what write transactions send, the step counts, the samples and the commit of every accepted command. -/

namespace Sys2Proof.Machine

/-! ### Commands out of sequence (40 R411, R422) -/

/-- Settles O9: each command goes through the check of its class, and DSP_WRITE_FRAME through that of the phase first. -/
theorem commandsOutOfSequenceAreRejected : Obligations.CommandsOutOfSequenceAreRejected := by
  refine ⟨fun s hidle i hi => ?raw, fun s hphase i hstart hstop hwack hwrb hrdb => ?sequencer⟩
  case raw => rcases hi with rfl | rfl | ⟨b, rfl⟩ | ⟨k, rfl⟩ <;> exact acceptRaw_of_idle hidle
  case sequencer =>
    cases i with
    | start => exact absurd rfl hstart
    | stop => exact absurd rfl hstop
    | waitAck => exact absurd rfl hwack
    | writeByte b => exact absurd rfl (hwrb b)
    | readByte k => exact absurd rfl (hrdb k)
    | dspWriteFrame len => exact exec_dspWriteFrame_of_phase hphase
    | _ => exact acceptSequencer_of_phase hphase

/-! ### Runs of the raw commands (40 R412 to R416) -/

/-- The turn after the last micro-step is the commit (10 R126). -/
theorem engineTurns_commit {n : Nat} {s u : State} (h : engineTurns n s = .next u) (hb : u.status.busy = true)
    (hdone : u.eng.pos.todo = []) : engineTurns (n + 1) s = .next (commit u) := by
  rw [engineTurns_add 1 h, engineTurns_succ (engineTurn_commit hb hdone)]
  rfl

/-- Settles O18: `p_start`, then the commit of ADDRESSING. -/
theorem startRuns : Obligations.StartRuns := fun s =>
  ⟨_, rfl, rfl, engineTurns_commit (run_pStart (s := accept (encode .start) pStart .none .addressing s) rfl rfl) rfl rfl⟩

/-- Settles O19: `p_stop`, then the commit of IDLE. -/
theorem stopRuns : Obligations.StopRuns := fun s hphase =>
  ⟨_, acceptRaw_of_phase hphase, rfl,
    engineTurns_commit (run_pStop (s := accept (encode .stop) pStop .none .idle s) rfl rfl) rfl rfl⟩

/-- Settles O20: `p_write` of the operand, then the commit of TRANSFER. -/
theorem writeByteRuns : Obligations.WriteByteRuns := fun s b hphase =>
  ⟨_, acceptRaw_of_phase hphase, rfl,
    engineTurns_commit (run_pWrite (s := accept (encode (.writeByte b)) (pWrite (.lit b)) .none .transfer s) rfl rfl rfl)
      rfl rfl⟩

/-- Settles O21: `p_wait_ack`, whose answer is noted whatever CTRL says, then the commit of TRANSFER. -/
theorem waitAckRuns : Obligations.WaitAckRuns := by
  intro s hphase
  have hrun := run_rawAck (s := accept (encode .waitAck) (pWaitAck .ackRaw) .none .transfer s) rfl rfl
  refine ⟨_, acceptRaw_of_phase hphase, rfl, (engineTurns_commit hrun rfl rfl).trans (congrArg Host.Outcome.next ?_)⟩
  have hanswer : answer (accept (encode .waitAck) (pWaitAck .ackRaw) .none .transfer s) 0 = answer s 0 := rfl
  rw [hanswer]
  cases answer s 0 <;> rfl

/-- Settles O22: `p_read` with the operand's acknowledge bit, then the commit of TRANSFER and RXDATA. -/
theorem readByteRuns : Obligations.ReadByteRuns := fun s k hphase =>
  ⟨_, acceptRaw_of_phase hphase, rfl,
    engineTurns_commit
      (run_pRead (s := accept (encode (.readByte k)) (pRead (k == 1) (.scl false)) .rxData .transfer s) rfl rfl) rfl rfl⟩

/-! ### What write transactions send (40 R423 to R425) -/

/-- The bytes of a run of transactions from answer `k` on, each with the answer of its own ack-wait; `ab` says that the last one
was NACKed under abort-on-NACK. -/
structure AnsweredRun (abort : Bit) (ans : Nat → Bit) (k : Nat) (sent : List (Byte × Bit)) (ab : Bit) : Prop where
  answers : sent.map (·.2) = (List.range sent.length).map fun j => ans (k + j)
  acked : ab = false → abort = true → ∀ p ∈ sent, p.2 = false
  nacked : ab = true → abort = true ∧ ∃ before last, sent = before ++ [last] ∧ last.2 = true ∧ ∀ p ∈ before, p.2 = false

theorem answeredRun_nil (abort : Bit) (ans : Nat → Bit) (k : Nat) : AnsweredRun abort ans k [] false :=
  ⟨rfl, fun _ _ => by simp, by simp⟩

theorem answeredRun_byte (abort : Bit) (ans : Nat → Bit) (k : Nat) (b : Byte) :
    AnsweredRun abort ans k [(b, ans k)] (ans k && abort) where
  answers := by simp
  acked hab habort := by simpa [habort] using hab
  nacked h := ⟨(Bool.and_eq_true_iff.1 h).2, [], (b, ans k), rfl, (Bool.and_eq_true_iff.1 h).1, by simp⟩

/-- Runs put end to end, the first of which was not aborted. -/
theorem AnsweredRun.append {abort : Bit} {ans : Nat → Bit} {k : Nat} {a b : List (Byte × Bit)} {ab : Bit}
    (ha : AnsweredRun abort ans k a false) (hb : AnsweredRun abort ans (k + a.length) b ab) :
    AnsweredRun abort ans k (a ++ b) ab where
  answers := by
    rw [List.map_append, ha.answers, hb.answers, List.length_append, List.range_add, List.map_append, List.map_map]
    simp only [Nat.add_assoc, Function.comp_def]
  acked hab habort p hp := (List.mem_append.1 hp).elim (ha.acked rfl habort p) (hb.acked hab habort p)
  nacked hab := by
    obtain ⟨habort, before, last, rfl, hlast, hbefore⟩ := hb.nacked hab
    exact ⟨habort, a ++ before, last, (List.append_assoc ..).symm, hlast, fun p hp =>
      (List.mem_append.1 hp).elim (ha.acked rfl habort p) (hbefore p)⟩

theorem carryTxn_answeredRun (abort : Bit) (ans : Nat → Bit) (k : Nat) (bytes : List Byte) :
    AnsweredRun abort ans k (carryTxn abort ans k bytes).1 (carryTxn abort ans k bytes).2 := by
  induction bytes generalizing k with
  | nil => exact answeredRun_nil abort ans k
  | cons b bs ih =>
    have hbyte := answeredRun_byte abort ans k b
    cases hab : ans k && abort with
    | true => rw [carryTxn_abort b bs hab]; rwa [hab] at hbyte
    | false => rw [carryTxn_go b bs hab]; rw [hab] at hbyte; exact hbyte.append (ih (k + 1))

theorem carryAll_answeredRun (abort : Bit) (ans : Nat → Bit) (k : Nat) (txns : List (List Byte)) :
    AnsweredRun abort ans k (carryAll abort ans k txns).1.flatten (carryAll abort ans k txns).2 := by
  induction txns generalizing k with
  | nil => exact answeredRun_nil abort ans k
  | cons t ts ih =>
    have htxn := carryTxn_answeredRun abort ans k t
    cases hab : (carryTxn abort ans k t).2 with
    | true => rw [carryAll_abort t ts hab]; simpa [hab] using htxn
    | false => rw [carryAll_go t ts hab]; rw [hab] at htxn; exact htxn.append (ih _)

/-- The bytes sent are the first ones of the transaction, and all of it where no NACK ended it. -/
theorem carryTxn_bytes (abort : Bit) (ans : Nat → Bit) (k : Nat) (bytes : List Byte) :
    (carryTxn abort ans k bytes).1.map (·.1) <+: bytes ∧
      ((carryTxn abort ans k bytes).2 = false → (carryTxn abort ans k bytes).1.map (·.1) = bytes) := by
  induction bytes generalizing k with
  | nil => exact ⟨List.nil_prefix, fun _ => rfl⟩
  | cons b bs ih =>
    obtain ⟨hprefix, hall⟩ := ih (k + 1)
    cases hab : ans k && abort with
    | true => rw [carryTxn_abort b bs hab]; exact ⟨⟨bs, rfl⟩, by simp⟩
    | false =>
      rw [carryTxn_go b bs hab]
      exact ⟨List.prefix_cons_inj b |>.2 hprefix, fun h => congrArg (b :: ·) (hall h)⟩

/-- So it is over a list of transactions. -/
theorem carryAll_bytes (abort : Bit) (ans : Nat → Bit) (k : Nat) (txns : List (List Byte)) :
    (carryAll abort ans k txns).1.flatten.map (·.1) <+: txns.flatten ∧
      ((carryAll abort ans k txns).2 = false → (carryAll abort ans k txns).1.map (fun t => t.map (·.1)) = txns) := by
  induction txns generalizing k with
  | nil => exact ⟨List.nil_prefix, fun _ => rfl⟩
  | cons t ts ih =>
    obtain ⟨hprefix, hall⟩ := carryTxn_bytes abort ans k t
    obtain ⟨hprefix', hall'⟩ := ih (k + (carryTxn abort ans k t).1.length)
    cases hab : (carryTxn abort ans k t).2 with
    | true =>
      rw [carryAll_abort t ts hab, List.flatten_cons]
      exact ⟨by simpa using hprefix.trans (List.prefix_append t ts.flatten), by simp⟩
    | false =>
      rw [carryAll_go t ts hab, List.flatten_cons, List.flatten_cons, List.map_append, hall hab]
      exact ⟨(List.prefix_append_right_inj t).2 hprefix', fun h => by rw [List.map_cons, hall hab, hall' h]⟩

/-- Settles O35: by induction on the transactions, and in each on its bytes. -/
theorem transactionsEndAtTheFirstNack : Obligations.TransactionsEndAtTheFirstNack := by
  intro abort ans k txns
  obtain ⟨hanswers, hacked, hnacked⟩ := carryAll_answeredRun abort ans k txns
  obtain ⟨hprefix, hall⟩ := carryAll_bytes abort ans k txns
  have htake := List.prefix_iff_eq_take.1 hprefix
  rw [List.length_map] at htake
  exact ⟨hanswers, htake, hall, hacked, hnacked⟩

/-! ### The sequencer commands of write transactions -/

theorem areTxns_map {α : Type} {m : Memory} {proc : α → List Micro} {bytes : α → List Byte} {l : List α}
    (h : ∀ a ∈ l, IsTxn m (proc a) (bytes a)) : AreTxns m (l.map proc) (l.map bytes) := by
  induction l with
  | nil => exact .nil
  | cons a l ih => exact .cons (h a List.mem_cons_self) (ih fun b hb => h b (List.mem_cons_of_mem a hb))

/-- Settles O23: one register write (41 R502). -/
theorem snsWakeRuns : Obligations.SnsWakeRuns := fun s hidle =>
  runsTransactions_of_txns (procs := [regTxn s s.par.regPwrMgmt wakeValue]) rfl hidle (List.cons_ne_nil _ _)
    (.cons (isTxn_regTxn ..) .nil)

/-- A display command byte is one transaction of three bytes (42 R603). -/
theorem isTxn_cmdTxn (m : Memory) (s : State) (b : Byte) : IsTxn m (cmdTxn s b) (cmdBytes s b) :=
  ⟨s.regs.dspAddr, [.lit controlCommand, .lit b], [controlCommand, b], rfl, .cons rfl (.cons rfl .nil), rfl⟩

/-- A sequencer command of display command bytes, in IDLE (42 R603). -/
theorem runsTransactions_cmdBytes {i : Instr} {s : State} {bs : List Byte}
    (hexec : exec i s = acceptSequencer (encode i) (bs.flatMap (cmdTxn s)) .none s) (hidle : s.status.phase = .idle)
    (hne : bs ≠ []) : RunsTransactions i s (bs.map (cmdBytes s)) :=
  runsTransactions_of_txns (procs := bs.map (cmdTxn s)) hexec hidle (by simpa using hne)
    (areTxns_map fun b _ => isTxn_cmdTxn s.fb s b)

/-- Settles O27: the command bytes are INIT_SEQ (42 R606). -/
theorem dspInitRuns : Obligations.DspInitRuns := fun _ hidle hne => runsTransactions_cmdBytes rfl hidle hne

/-- An operand of `n` bits as a byte: its high bits 0 (42 R607). -/
theorem zeroExtend_byte_eq_append {n : Nat} (x : BitVec n) (h : n ≤ 8) :
    x.zeroExtend 8 = (0#(8 - n) ++ x).cast (Nat.sub_add_cancel h) :=
  BitVec.setWidth_eq_append h

/-- Settles O28: the command bytes are the two range commands, their operands zero-extended (42 R607). -/
theorem dspSetWindowRuns : Obligations.DspSetWindowRuns := by
  intro s cs ce ps pe hidle
  have hcol (x : BitVec 7) : 0#1 ++ x = x.zeroExtend 8 := (zeroExtend_byte_eq_append x (by decide)).symm
  have hpage (x : BitVec 3) : 0#5 ++ x = x.zeroExtend 8 := (zeroExtend_byte_eq_append x (by decide)).symm
  rw [hcol cs, hcol ce, hpage ps, hpage pe]
  exact runsTransactions_cmdBytes (bs := windowBytes s.par cs ce ps pe) rfl hidle (List.cons_ne_nil _ _)

theorem cursorPage_eq_add : ∀ page : BitVec 3, cursorPage page = BitVec.ofNat 8 (0xB0 + page.toNat) := by decide

theorem cursorCol_eq : ∀ col : BitVec 7, cursorColLow col = BitVec.ofNat 8 (col.toNat % 16) ∧
    cursorColHigh col = BitVec.ofNat 8 (0x10 + col.toNat / 16) := by decide

/-- Settles O29: the command bytes, said arithmetically (42 R613). -/
theorem dspSetCursorRuns : Obligations.DspSetCursorRuns := by
  intro s page col hidle
  rw [← cursorPage_eq_add, ← (cursorCol_eq col).1, ← (cursorCol_eq col).2]
  exact runsTransactions_cmdBytes (bs := cursorBytes page col) rfl hidle (List.cons_ne_nil _ _)

/-- A run of display data bytes is one transaction (42 R604). -/
theorem isTxn_dataTxn {m : Memory} {srcs : List ByteSrc} {d : List Byte} (s : State) (h : SourcesAre m srcs d) :
    IsTxn m (dataTxn s srcs) (dataBytes s d) :=
  ⟨s.regs.dspAddr, .lit controlData :: srcs, controlData :: d, rfl, .cons rfl h, rfl⟩

theorem sourcesAre_lit (m : Memory) (d : List Byte) : SourcesAre m (d.map .lit) d := by
  induction d with
  | nil => exact .nil
  | cons b d ih => exact .cons rfl ih

/-- DSP_PUTCHAR in IDLE is one data transaction of the glyph's columns and a blank one (42 R612). -/
theorem runsTransactions_dspPutchar (c : Byte) {s : State} (hidle : s.status.phase = .idle) :
    RunsTransactions (.dspPutchar c) s [dataBytes s (charBytes s.par c)] :=
  runsTransactions_of_txns (procs := [dataTxn s ((charBytes s.par c).map .lit)]) (by simp [exec, execDspPutchar]) hidle
    (List.cons_ne_nil _ _) (.cons (isTxn_dataTxn s (sourcesAre_lit ..)) .nil)

theorem charBytes_of_font {p : Params} {c : Byte} {g : List Byte} (h : fontAt p c = some g) : charBytes p c = g ++ [0x00] := by
  simp [charBytes, glyph, h]

/-- A code outside FONT is drawn blank (42 R610). -/
theorem charBytes_of_no_font {p : Params} {c : Byte} (h : fontAt p c = none) :
    charBytes p c = List.replicate (glyphColumns p.gw + 1) 0x00 := by
  simp [charBytes, glyph, h, List.replicate_succ']

/-- Settles O30: the bytes of the code's glyph, where FONT has one and where it has none. -/
theorem dspPutcharRuns : Obligations.DspPutcharRuns := by
  intro s c hidle
  have hrun := runsTransactions_dspPutchar c hidle
  refine ⟨fun g hg => ?font, fun hno => ?blank⟩
  case font => rwa [charBytes_of_font hg] at hrun
  case blank => rwa [charBytes_of_no_font hno] at hrun

/-! ### The chunks of a frame (42 R608) -/

/-- The first `n` chunks hold the FB indices below `n * c`. -/
theorem flatten_chunkIndices (c n : Nat) :
    ((List.range n).map (chunkIndices c)).flatten = List.range (min (n * c) frameBytes) := by
  induction n with
  | zero => simp
  | succ n ih =>
    have hnext : List.range (min (n * c) frameBytes) ++ chunkIndices c n = List.range (min ((n + 1) * c) frameBytes) := by
      rw [chunkIndices, Nat.succ_mul]
      by_cases hfull : frameBytes ≤ n * c
      · rw [Nat.min_eq_right hfull, Nat.min_eq_right (Nat.le_trans hfull (Nat.le_add_right _ _)), Nat.sub_eq_zero_of_le hfull,
          List.range'_zero, List.append_nil]
      · rw [Nat.min_eq_left (Nat.le_of_not_le hfull), List.range_eq_range', List.range_eq_range',
          show min (n * c + c) frameBytes = n * c + (min (n * c + c) frameBytes - n * c) by omega, ← List.range'_append_1,
          Nat.zero_add, Nat.add_sub_cancel_left]
    rw [List.range_succ, List.map_append, List.flatten_append, ih, ← hnext]
    simp

/-- The chunks reach the frame's end. -/
theorem frameBytes_le_chunkCount_mul {c : Nat} (hc : 1 ≤ c) : frameBytes ≤ chunkCount c * c := by
  have hdiv := Nat.lt_div_mul_add (a := frameBytes + c - 1) (b := c) (by omega)
  unfold chunkCount
  omega

/-- The chunks put end to end are the frame. -/
theorem flatten_frameChunks {c : Nat} (hc : 1 ≤ c) : (frameChunks c).flatten = List.range frameBytes := by
  rw [frameChunks, flatten_chunkIndices, Nat.min_eq_right (frameBytes_le_chunkCount_mul hc)]

theorem lt_frameBytes_of_mem_chunk {c j : Nat} {l : List Nat} (hl : l ∈ frameChunks c) (hj : j ∈ l) : j < frameBytes := by
  obtain ⟨k, -, rfl⟩ := List.mem_map.1 hl
  rw [chunkIndices, List.mem_range'_1] at hj
  omega

theorem frameChunks_ne_nil {c : Nat} (hc : 1 ≤ c) : frameChunks c ≠ [] := by
  intro h
  have hflat := flatten_frameChunks hc
  rw [h] at hflat
  exact absurd (congrArg List.length hflat) (by simp [frameBytes])

/-- Framebuffer bytes that are written are the bytes FB holds. -/
theorem sourcesAre_fb {m : Memory} {js : List Nat} (h : ∀ j ∈ js, (m.read j).isSome = true) :
    SourcesAre m (js.map .fb) (js.map fun j => (m.read j).getD 0) := by
  induction js with
  | nil => exact .nil
  | cons j js ih =>
    obtain ⟨b, hb⟩ := Option.isSome_iff_exists.1 (h j List.mem_cons_self)
    refine .cons ?_ (ih fun i hi => h i (List.mem_cons_of_mem j hi))
    simp [sourceByte, hb]

/-- Every chunk of a written frame is a data transaction of the bytes FB holds (42 R608). -/
theorem isTxn_chunk {s : State} (hfb : frameWritten s.fb) {c : List Nat} (hc : c ∈ frameChunks s.regs.chunk.toNat) :
    IsTxn s.fb (dataTxn s (c.map .fb)) (dataBytes s (c.map fun j => (s.fb.read j).getD 0)) :=
  isTxn_dataTxn s (sourcesAre_fb fun j hj => hfb j (lt_frameBytes_of_mem_chunk hc hj))

/-- Settles O31: one data transaction a chunk, of FB bytes that are all written. -/
theorem dspWriteFrameRuns : Obligations.DspWriteFrameRuns := by
  intro s hidle hmin hmax hfb
  have hvalid : ¬((1024 : BitVec 11) ≠ 1024 ∨ s.regs.chunk = 0 ∨ 1024 < s.regs.chunk.toNat) := by
    rintro (h | h | h)
    · exact h rfl
    · simp [h] at hmin
    · omega
  have hexec : exec (.dspWriteFrame 1024) s = acceptSequencer (encode (.dspWriteFrame 1024)) (frameProcedure s) .none s :=
    (exec_dspWriteFrame_of_valid hidle hvalid).trans (acceptSequencer_of_idle hidle).symm
  have htxns : AreTxns s.fb ((frameChunks s.regs.chunk.toNat).map fun c => dataTxn s (c.map .fb)) (frameTransactions s) :=
    areTxns_map fun _ hc => isTxn_chunk hfb hc
  exact runsTransactions_of_txns hexec hidle (by simpa using frameChunks_ne_nil hmin) htxns

/-! ### Samples (40 R402, R417, R420) -/

/-- A safe procedure samples only while both lines are released (40 R417). -/
theorem lineSafe_sample {m : Micro} {rest : List Micro} {c d : Bit} (hm : isSample m = true)
    (h : lineSafe (m :: rest) c (some d) = true) : c = true ∧ d = true := by
  cases m with
  | smp | smpShift i => simp only [lineSafe, Bool.and_eq_true, beq_iff_eq, Option.some.injEq] at h; exact h.1
  | _ => cases hm

/-- A micro-step whose event is a sample takes one, and reads the level of SDA (40 R402). -/
theorem microStep_sample {m : Micro} {s u : State} {b : Bit} (h : microStep m s = .next u)
    (htrace : u.trace = s.trace ++ [.smp b]) : isSample m = true ∧ b = sdaLevel s := by
  simp only [State.trace, ← List.reverse_cons, List.reverse_inj] at htrace
  rcases microStep_next h with ⟨v, rfl, rfl⟩ | ⟨v, rfl, rfl⟩ | ⟨src, i, c, rfl, -, rfl⟩ | ⟨rfl, rfl⟩ | ⟨i, rfl, rfl⟩ |
    ⟨rfl, rfl⟩ | ⟨rfl, rfl⟩ | ⟨k, rfl, rfl⟩
  case inr.inr.inr.inl | inr.inr.inr.inr.inl => simp_all [isSample]
  all_goals simp at htrace

/-- With SDA released a sample reads the environment's next answer. -/
theorem sdaLevel_of_released {s : State} (h : s.lines.sda = true) : sdaLevel s = answer s 0 := by
  rw [sdaLevel, h, Bool.true_and, answer_zero]

/-- Settles O47: only a micro-step samples, and the invariant has its lines released. -/
theorem samplesAreTakenOnReleasedLines : Obligations.SamplesAreTakenOnReleasedLines := by
  intro s u b hs h htrace
  rcases step_next h with ⟨-, h⟩ | ⟨-, h⟩ | ⟨-, rfl⟩
  case inl =>
    have hsame : u.trace = s.trace := congrArg List.reverse (hostTurn_frame h).traceRev
    simp [hsame] at htrace
  case inr.inr => simp [State.trace] at htrace
  rcases engineTurn_next h with ⟨-, rfl⟩ | ⟨-, -, rfl⟩ | ⟨m, rest, hb, htodo, hm⟩
  · simp [State.trace] at htrace
  · simp [State.trace] at htrace
  · have hsafe := (hs.sound hb).1
    rw [show s.eng.pos.todo = m :: rest from htodo] at hsafe
    obtain ⟨hsample, hbit⟩ := microStep_sample hm htrace
    obtain ⟨hscl, hsda⟩ := lineSafe_sample hsample hsafe
    exact ⟨hscl, hsda, hbit.trans (sdaLevel_of_released (s := settled (setTodo rest (dropTurn s))) hsda)⟩

theorem envSda_fake {s : State} (h : s.par.backend = .fake) : envSda s = s.par.fakeScript.getD s.env.calls true := by
  simp [envSda, h]

/-- Settles O53: with SDA released the sample is the script's next bit, and past its end the default 1. -/
theorem fakeBackendAnswersItsScript : Obligations.FakeBackendAnswersItsScript := by
  intro s hfake hsda
  have hbit : (smp s).lines.sampled = s.par.fakeScript.getD s.env.calls true := by
    rw [smp_lines, sdaLevel_of_released hsda, answer_zero, envSda_fake hfake]
  refine ⟨fun h => ?script, fun h => ?exhausted, rfl, by simp [pins, hfake]⟩
  case script => rw [hbit, List.getD_eq_getElem?_getD, List.getElem?_eq_getElem h, Option.getD_some]
  case exhausted => rw [hbit, List.getD_eq_getElem?_getD, List.getElem?_eq_none h, Option.getD_none]

/-! ### Step counts (40 R418, 70 R812, R813) -/

/-- `ms` is `settles` line writes and `samples` samples, one engine step each. -/
def StepCounts (ms : List Micro) (settles samples : Nat) : Prop :=
  settleCount ms = settles ∧ sampleCount ms = samples ∧ ms.length = settles + samples

theorem StepCounts.append {a b : List Micro} {m n m' n' : Nat} (ha : StepCounts a m n) (hb : StepCounts b m' n') :
    StepCounts (a ++ b) (m + m') (n + n') := by
  obtain ⟨hset, hsmp, hlen⟩ := ha
  obtain ⟨hset', hsmp', hlen'⟩ := hb
  simp only [settleCount, sampleCount] at hset hsmp hset' hsmp'
  refine ⟨?_, ?_, ?_⟩
  · rw [settleCount, List.countP_append, hset, hset']
  · rw [sampleCount, List.countP_append, hsmp, hsmp']
  · rw [List.length_append, hlen, hlen']; omega

theorem stepCounts_nil : StepCounts [] 0 0 := ⟨rfl, rfl, rfl⟩

theorem stepCounts_flatMap {α : Type} {f : α → List Micro} {m n : Nat} (h : ∀ a, StepCounts (f a) m n) (l : List α) :
    StepCounts (l.flatMap f) (m * l.length) (n * l.length) := by
  induction l with
  | nil => exact stepCounts_nil
  | cons a l ih =>
    rw [List.length_cons, Nat.mul_succ, Nat.mul_succ, Nat.add_comm (m * _), Nat.add_comm (n * _)]
    exact (h a).append ih

theorem stepCounts_pStart : StepCounts pStart 4 0 := ⟨rfl, rfl, rfl⟩

theorem stepCounts_pStop : StepCounts pStop 3 0 := ⟨rfl, rfl, rfl⟩

theorem stepCounts_pWrite (src : ByteSrc) : StepCounts (pWrite src) 24 0 := ⟨rfl, rfl, rfl⟩

/-- A micro-step that is no sample is one line write. -/
theorem stepCounts_lineWrite {m : Micro} (h : isSample m = false) : StepCounts [m] 1 0 := by
  simp [StepCounts, settleCount, sampleCount, h]

theorem stepCounts_pWaitAck {last : Micro} (h : isSample last = false) : StepCounts (pWaitAck last) 3 1 :=
  StepCounts.append (a := [.sda true, .scl true, .smp]) ⟨rfl, rfl, rfl⟩ (stepCounts_lineWrite h)

theorem stepCounts_pRead (k : Bit) {last : Micro} (h : isSample last = false) : StepCounts (pRead k last) 20 8 := by
  have hbits := stepCounts_flatMap (f := fun i => [.scl true, .smpShift i, .scl false]) (m := 2) (n := 1)
    (fun _ => ⟨rfl, rfl, rfl⟩) bitsMsbFirst
  have hack : StepCounts [.sda (!k), .scl true, last] 3 0 :=
    StepCounts.append (a := [.sda (!k), .scl true]) ⟨rfl, rfl, rfl⟩ (stepCounts_lineWrite h)
  exact ((stepCounts_lineWrite (m := .sda true) rfl).append hbits).append hack

/-- Settles O38: the counts of the five primitives. -/
theorem primitiveStepCounts : Obligations.PrimitiveStepCounts :=
  ⟨stepCounts_pStart, stepCounts_pStop, stepCounts_pWrite, fun _ h => stepCounts_pWaitAck h,
    fun k _ h => stepCounts_pRead k h⟩

theorem stepCounts_ackedWrite (src : ByteSrc) : StepCounts (ackedWrite src) 27 1 :=
  (stepCounts_pWrite src).append (stepCounts_pWaitAck rfl)

/-- A write transaction: START, the address byte, its other bytes, STOP (40 R426). -/
theorem stepCounts_wrTxn (a7 : BitVec 7) (bytes : List ByteSrc) :
    StepCounts (wrTxn a7 bytes) (34 + 27 * bytes.length) (1 + bytes.length) := by
  have h := ((stepCounts_pStart.append (stepCounts_ackedWrite (.lit (addressByte a7 0)))).append
    (stepCounts_flatMap stepCounts_ackedWrite bytes)).append stepCounts_pStop
  rwa [show 4 + 27 + 27 * bytes.length + 3 = 34 + 27 * bytes.length by omega,
    show 0 + 1 + 1 * bytes.length + 0 = 1 + bytes.length by omega] at h

theorem stepCounts_regTxn (s : State) (r v : Byte) : StepCounts (regTxn s r v) 88 3 :=
  stepCounts_wrTxn s.regs.snsAddr [.lit r, .lit v]

theorem stepCounts_cmdTxns (s : State) (bs : List Byte) :
    StepCounts (bs.flatMap (cmdTxn s)) (88 * bs.length) (3 * bs.length) :=
  stepCounts_flatMap (fun b => stepCounts_wrTxn s.regs.dspAddr [.lit controlCommand, .lit b]) bs

theorem stepCounts_dataTxn (s : State) (d : List ByteSrc) : StepCounts (dataTxn s d) (61 + 27 * d.length) (2 + d.length) := by
  have h := stepCounts_wrTxn s.regs.dspAddr (.lit controlData :: d)
  rwa [List.length_cons, show 34 + 27 * (d.length + 1) = 61 + 27 * d.length by omega,
    show 1 + (d.length + 1) = 2 + d.length by omega] at h

theorem stepCounts_configProcedure (s : State) : StepCounts (configProcedure s) 352 12 :=
  (((stepCounts_regTxn ..).append (stepCounts_regTxn ..)).append (stepCounts_regTxn ..)).append (stepCounts_regTxn ..)

theorem stepCounts_burstReads : StepCounts burstReads 280 112 :=
  stepCounts_flatMap (fun _ => stepCounts_pRead _ rfl) burstIndices

theorem stepCounts_readProcedure (s : State) : StepCounts (readProcedure s) 372 115 :=
  (((((stepCounts_pStart.append (stepCounts_ackedWrite _)).append (stepCounts_ackedWrite _)).append stepCounts_pStart).append
    (stepCounts_ackedWrite _)).append stepCounts_burstReads).append stepCounts_pStop

/-- The data transactions of any chunks: 63 steps a chunk and 28 a byte. -/
theorem stepCounts_chunks (s : State) (cs : List (List Nat)) :
    StepCounts (cs.flatMap fun c => dataTxn s (c.map .fb)) (61 * cs.length + 27 * cs.flatten.length)
      (2 * cs.length + cs.flatten.length) := by
  induction cs with
  | nil => exact stepCounts_nil
  | cons c cs ih =>
    have h := (stepCounts_dataTxn s (c.map .fb)).append ih
    rw [List.length_map] at h
    rw [List.length_cons, List.flatten_cons, List.length_append]
    rwa [show 61 + 27 * c.length + (61 * cs.length + 27 * cs.flatten.length) =
        61 * (cs.length + 1) + 27 * (c.length + cs.flatten.length) by omega,
      show 2 + c.length + (2 * cs.length + cs.flatten.length) = 2 * (cs.length + 1) + (c.length + cs.flatten.length) by
        omega] at h

theorem stepCounts_frameProcedure {s : State} (hc : 1 ≤ s.regs.chunk.toNat) :
    StepCounts (frameProcedure s) (61 * chunkCount s.regs.chunk.toNat + 27648) (2 * chunkCount s.regs.chunk.toNat + 1024) := by
  have h := stepCounts_chunks s (frameChunks s.regs.chunk.toNat)
  have hcount : (frameChunks s.regs.chunk.toNat).length = chunkCount s.regs.chunk.toNat := by simp [frameChunks]
  rwa [flatten_frameChunks hc, List.length_range, hcount] at h

/-- A glyph has GW columns, in FONT and blank (42 R610, R611). -/
theorem length_glyph {p : Params} (h : fontOk p) (c : Byte) : (glyph p c).length = glyphColumns p.gw := by
  obtain ⟨-, -, hcolumns⟩ := h
  unfold glyph fontAt
  cases hfind : p.font.find? (·.1 == c) with
  | none => simp
  | some r => exact hcolumns r (List.mem_of_find?_eq_some hfind)

/-! ### The procedure of each command -/

/-- The micro-steps that each command is accepted with (40 R412 to R416; 41; 42). -/
def procedureOf (s : State) : Instr → List Micro
  | .start => pStart
  | .stop => pStop
  | .writeByte byte => pWrite (.lit byte)
  | .waitAck => pWaitAck .ackRaw
  | .readByte ack => pRead (ack == 1) (.scl false)
  | .snsWake => regTxn s s.par.regPwrMgmt wakeValue
  | .snsConfig => configProcedure s
  | .snsRead => readProcedure s
  | .dspInit => s.par.initSeq.flatMap (cmdTxn s)
  | .dspSetWindow cs ce ps pe => (windowBytes s.par cs ce ps pe).flatMap (cmdTxn s)
  | .dspWriteFrame _ => frameProcedure s
  | .dspPutchar byte => dataTxn s ((charBytes s.par byte).map .lit)
  | .dspSetCursor page col => (cursorBytes page col).flatMap (cmdTxn s)

/-- A frame is in chunks of one byte at least: no other CHUNK.SIZE is accepted (42 R609). -/
def ChunkFits (i : Instr) (s : State) : Prop := ∀ len, i = .dspWriteFrame len → 1 ≤ s.regs.chunk.toNat

theorem acceptRaw_busy {w : Word} {ms : List Micro} {p : Product} {ph : Phase} {s t : State}
    (h : acceptRaw w ms p ph s = .next t) (hb : s.status.busy = false) (ht : t.status.busy = true) :
    t = accept w ms p ph s := by
  rcases acceptRaw_next h with ⟨-, rfl⟩ | ⟨-, rfl⟩
  · simp [hb] at ht
  · rfl

theorem acceptSequencer_busy {w : Word} {ms : List Micro} {p : Product} {s t : State}
    (h : acceptSequencer w ms p s = .next t) (hb : s.status.busy = false) (ht : t.status.busy = true) :
    t = accept w ms p .idle s := by
  rcases acceptSequencer_next h with ⟨-, rfl⟩ | ⟨-, rfl⟩
  · simp [hb] at ht
  · rfl

theorem dspWriteFrame_busy {len : BitVec 11} {s t : State} (h : exec (.dspWriteFrame len) s = .next t)
    (hb : s.status.busy = false) (ht : t.status.busy = true) :
    t = accept (encode (.dspWriteFrame len)) (frameProcedure s) .none .idle s ∧ 1 ≤ s.regs.chunk.toNat := by
  by_cases hidle : s.status.phase = .idle
  · by_cases hwrong : len ≠ 1024 ∨ s.regs.chunk = 0 ∨ 1024 < s.regs.chunk.toNat
    · cases (exec_dspWriteFrame_of_invalid hidle hwrong).symm.trans h
      simp [hb] at ht
    · cases (exec_dspWriteFrame_of_valid hidle hwrong).symm.trans h
      refine ⟨rfl, Nat.one_le_iff_ne_zero.2 fun hzero => hwrong (.inr (.inl (BitVec.eq_of_toNat_eq hzero)))⟩
  · cases (exec_dspWriteFrame_of_phase hidle).symm.trans h
    simp [hb] at ht

/-- A command that leaves the block busy was accepted, with its own procedure. -/
theorem exec_busy {i : Instr} {s t : State} (h : exec i s = .next t) (hb : s.status.busy = false)
    (ht : t.status.busy = true) : (∃ p ph, t = accept (encode i) (procedureOf s i) p ph s) ∧ ChunkFits i s := by
  cases i with
  | start => cases h; exact ⟨⟨_, _, rfl⟩, nofun⟩
  | dspWriteFrame len =>
    obtain ⟨haccept, hchunk⟩ := dspWriteFrame_busy h hb ht
    exact ⟨⟨_, _, haccept⟩, fun _ _ => hchunk⟩
  | stop | writeByte _ | waitAck | readByte _ => exact ⟨⟨_, _, acceptRaw_busy h hb ht⟩, nofun⟩
  | _ => exact ⟨⟨_, _, acceptSequencer_busy h hb ht⟩, nofun⟩

/-- The counts of each command's procedure are those the spec lists (70 R812, R813). -/
theorem procedureOf_counts {i : Instr} {s : State} (hfont : fontOk s.par) (hchunk : ChunkFits i s) :
    ∃ samples, StepCounts (procedureOf s i) (settlesOf i s) samples ∧ settlesOf i s + samples = stepsOf i s := by
  cases i with
  | start => exact ⟨_, stepCounts_pStart, rfl⟩
  | stop => exact ⟨_, stepCounts_pStop, rfl⟩
  | writeByte byte => exact ⟨_, stepCounts_pWrite _, rfl⟩
  | waitAck => exact ⟨_, stepCounts_pWaitAck rfl, rfl⟩
  | readByte ack => exact ⟨_, stepCounts_pRead _ rfl, rfl⟩
  | snsWake => exact ⟨_, stepCounts_regTxn .., rfl⟩
  | snsConfig => exact ⟨_, stepCounts_configProcedure s, rfl⟩
  | snsRead => exact ⟨_, stepCounts_readProcedure s, rfl⟩
  | dspInit => exact ⟨_, stepCounts_cmdTxns .., by simp only [settlesOf, stepsOf]; omega⟩
  | dspSetWindow cs ce ps pe => exact ⟨_, stepCounts_cmdTxns .., rfl⟩
  | dspSetCursor page col => exact ⟨_, stepCounts_cmdTxns .., rfl⟩
  | dspWriteFrame len =>
    exact ⟨_, stepCounts_frameProcedure (hchunk len rfl), by simp only [settlesOf, stepsOf]; omega⟩
  | dspPutchar byte =>
    have h := stepCounts_dataTxn s ((charBytes s.par byte).map .lit)
    rw [List.length_map, charBytes, List.length_append, length_glyph hfont] at h
    exact ⟨_, h, by simp only [settlesOf, stepsOf, List.length_singleton]; omega⟩

/-- Settles O39: the counts of the command's procedure, and the one event of a micro-step. -/
theorem commandStepCounts : Obligations.CommandStepCounts := by
  refine ⟨fun i s t hb hfont h ht => ?counts, fun s u hb htodo h => ?event⟩
  case counts =>
    obtain ⟨⟨p, ph, rfl⟩, hchunk⟩ := exec_busy h hb ht
    obtain ⟨samples, ⟨hsettles, -, hlength⟩, hsteps⟩ := procedureOf_counts hfont hchunk
    exact ⟨hlength.trans hsteps, hsettles⟩
  case event =>
    rcases engineTurn_next h with ⟨hidle, -⟩ | ⟨-, hdone, -⟩ | ⟨m, rest, -, -, hm⟩
    · simp [hb] at hidle
    · exact absurd hdone htodo
    · obtain ⟨e, htrace, -⟩ := microStep_event hm
      exact ⟨(congrArg Status.busy (engineTurn_micro_frame hm).status).trans hb, e, htrace⟩

/-! ### Every accepted command commits (40 R424, R428) -/

/-- Every byte that `ms` sends is known: given with the command, or written in FB (70 R804). -/
def BytesKnown (m : Memory) (ms : List Micro) : Prop :=
  ∀ src i, Micro.sdaBit src i ∈ ms → ∃ b, sourceByte m src = .ok b

theorem BytesKnown.append {m : Memory} {a b : List Micro} (ha : BytesKnown m a) (hb : BytesKnown m b) :
    BytesKnown m (a ++ b) := fun src i h => (List.mem_append.1 h).elim (ha src i) (hb src i)

theorem bytesKnown_flatMap {α : Type} {m : Memory} {f : α → List Micro} {l : List α} (h : ∀ a ∈ l, BytesKnown m (f a)) :
    BytesKnown m (l.flatMap f) := fun src i hmem => by
  obtain ⟨a, ha, hmem⟩ := List.mem_flatMap.1 hmem
  exact h a ha src i hmem

/-- Line writes and samples alone send no byte. -/
theorem bytesKnown_of_no_bytes {ms : List Micro} (m : Memory) (h : ∀ src i, Micro.sdaBit src i ∉ ms) : BytesKnown m ms :=
  fun src i hmem => absurd hmem (h src i)

theorem bytesKnown_pStart (m : Memory) : BytesKnown m pStart := bytesKnown_of_no_bytes m (by simp [pStart])

theorem bytesKnown_pStop (m : Memory) : BytesKnown m pStop := bytesKnown_of_no_bytes m (by simp [pStop])

theorem bytesKnown_pWrite {m : Memory} {src : ByteSrc} {b : Byte} (h : sourceByte m src = .ok b) :
    BytesKnown m (pWrite src) := by
  intro src' i hmem
  obtain rfl : src' = src := by simp only [pWrite, List.mem_flatMap] at hmem; simp_all
  exact ⟨b, h⟩

theorem bytesKnown_rawAck (m : Memory) : BytesKnown m (pWaitAck .ackRaw) := bytesKnown_of_no_bytes m (by simp [pWaitAck])

theorem bytesKnown_pRead (m : Memory) (k : Bit) : BytesKnown m (pRead k (.scl false)) :=
  bytesKnown_of_no_bytes m (by simp [pRead])

theorem bytesKnown_burstReads (m : Memory) : BytesKnown m burstReads :=
  bytesKnown_of_no_bytes m (by simp [burstReads, pRead])

theorem bytesKnown_ackedWrite {m : Memory} {src : ByteSrc} {b : Byte} (h : sourceByte m src = .ok b) :
    BytesKnown m (ackedWrite src) :=
  (bytesKnown_pWrite h).append (bytesKnown_of_no_bytes m (by simp [pWaitAck]))

theorem bytesKnown_wrTxn {m : Memory} (a7 : BitVec 7) {srcs : List ByteSrc} {bytes : List Byte}
    (h : SourcesAre m srcs bytes) : BytesKnown m (wrTxn a7 srcs) := by
  have hbytes : BytesKnown m (srcs.flatMap ackedWrite) := by
    induction h with
    | nil => exact bytesKnown_of_no_bytes m (by simp)
    | cons hsrc _ ih => exact (bytesKnown_ackedWrite hsrc).append ih
  exact (((bytesKnown_pStart m).append (bytesKnown_ackedWrite rfl)).append hbytes).append (bytesKnown_pStop m)

theorem IsTxn.bytesKnown {m : Memory} {ms : List Micro} {bytes : List Byte} (h : IsTxn m ms bytes) : BytesKnown m ms := by
  obtain ⟨a7, srcs, vals, rfl, hsrcs, -⟩ := h
  exact bytesKnown_wrTxn a7 hsrcs

theorem bytesKnown_cmdTxns (m : Memory) (s : State) (bs : List Byte) : BytesKnown m (bs.flatMap (cmdTxn s)) :=
  bytesKnown_flatMap fun b _ => (isTxn_cmdTxn m s b).bytesKnown

theorem bytesKnown_configProcedure (m : Memory) (s : State) : BytesKnown m (configProcedure s) :=
  (((isTxn_regTxn ..).bytesKnown.append (isTxn_regTxn ..).bytesKnown).append (isTxn_regTxn ..).bytesKnown).append
    (isTxn_regTxn ..).bytesKnown

theorem bytesKnown_readProcedure (m : Memory) (s : State) : BytesKnown m (readProcedure s) :=
  ((((((bytesKnown_pStart m).append (bytesKnown_ackedWrite rfl)).append (bytesKnown_ackedWrite rfl)).append
    (bytesKnown_pStart m)).append (bytesKnown_ackedWrite rfl)).append (bytesKnown_burstReads m)).append (bytesKnown_pStop m)

/-- Every byte a command sends is known, but for a frame of unwritten FB bytes. -/
theorem bytesKnown_procedureOf {i : Instr} {s : State} (h : (∃ len, i = .dspWriteFrame len) → frameWritten s.fb) :
    BytesKnown s.fb (procedureOf s i) := by
  cases i with
  | start => exact bytesKnown_pStart _
  | stop => exact bytesKnown_pStop _
  | writeByte byte => exact bytesKnown_pWrite rfl
  | waitAck => exact bytesKnown_rawAck _
  | readByte ack => exact bytesKnown_pRead _ _
  | snsWake => exact (isTxn_regTxn ..).bytesKnown
  | snsConfig => exact bytesKnown_configProcedure _ s
  | snsRead => exact bytesKnown_readProcedure _ s
  | dspPutchar byte => exact (isTxn_dataTxn s (sourcesAre_lit ..)).bytesKnown
  | dspWriteFrame len => exact bytesKnown_flatMap fun c hc => (isTxn_chunk (h ⟨len, rfl⟩) hc).bytesKnown
  | _ => exact bytesKnown_cmdTxns _ s _

/-- A micro-step answers once the byte it sends is known. -/
theorem microStep_answers {m : Micro} {s : State} (h : ∀ src i, m = .sdaBit src i → ∃ b, sourceByte s.fb src = .ok b) :
    ∃ u, microStep m s = .next u := by
  cases m with
  | sdaBit src i =>
    obtain ⟨b, hb⟩ := h src i rfl
    exact ⟨sda (bitOf b i) s, by simp only [microStep, hb]⟩
  | _ => exact ⟨_, rfl⟩

/-- A micro-step leaves the rest of the procedure, or the STOP of an abort in its place (40 R424). -/
theorem microStep_todo {m : Micro} {s u : State} (h : microStep m s = .next u) :
    u.eng.pos.todo = s.eng.pos.todo ∨ u.eng.pos.todo = pStop := by
  rcases microStep_next h with ⟨v, -, rfl⟩ | ⟨v, -, rfl⟩ | ⟨src, i, b, -, -, rfl⟩ | ⟨-, rfl⟩ | ⟨i, -, rfl⟩ | ⟨-, rfl⟩ |
    ⟨-, rfl⟩ | ⟨k, -, rfl⟩
  case inr.inr.inr.inr.inr.inr.inl =>
    unfold noteAckSeq
    dsimp only
    split
    · exact .inr rfl
    · exact .inl rfl
  all_goals exact .inl rfl

/-- A STOP runs to the commit. -/
theorem engineTurns_of_pStop {s : State} (hb : s.status.busy = true) (h : s.eng.pos.todo = pStop) :
    ∃ u, engineTurns 4 s = .next u ∧ u.status.busy = false :=
  ⟨_, engineTurns_commit (run_pStop (rest := []) hb h) hb rfl, rfl⟩

/-- A procedure of known bytes runs to its commit, one turn a micro-step, or over the STOP of an abort (40 R424, R428). -/
theorem engineTurns_commits {ms : List Micro} {s : State} (hb : s.status.busy = true) (htodo : s.eng.pos.todo = ms)
    (hbytes : BytesKnown s.fb ms) : ∃ n u, n ≤ ms.length + 4 ∧ engineTurns n s = .next u ∧ u.status.busy = false := by
  induction ms generalizing s with
  | nil => exact ⟨1, _, by simp, engineTurns_succ (engineTurn_commit hb htodo), rfl⟩
  | cons m rest ih =>
    obtain ⟨v, hm⟩ := microStep_answers (s := settled (setTodo rest s)) (m := m)
      fun src i h => hbytes src i (h ▸ List.mem_cons_self)
    have hturn : engineTurn s = .next v := (engineTurn_micro hb htodo).trans hm
    have hf := engineTurn_micro_frame hm
    have hbusy : v.status.busy = true := by rw [hf.status, hb]
    rcases microStep_todo hm with hrest | hstop
    · obtain ⟨n, u, hn, hrun, hu⟩ := ih hbusy hrest
        (by rw [hf.engine.fb]; exact fun src i h => hbytes src i (List.mem_cons_of_mem m h))
      exact ⟨n + 1, u, by rw [List.length_cons]; omega, (engineTurns_succ hturn).trans hrun, hu⟩
    · obtain ⟨u, hrun, hu⟩ := engineTurns_of_pStop hbusy hstop
      exact ⟨5, u, by rw [List.length_cons]; omega, (engineTurns_succ hturn).trans hrun, hu⟩

/-- Settles O48: an accepted command's bytes are known, and its procedure runs to the commit. -/
theorem everyAcceptedCommandCommits : Obligations.EveryAcceptedCommandCommits := by
  intro i s t hb h ht hframe
  obtain ⟨⟨p, ph, rfl⟩, -⟩ := exec_busy h hb ht
  exact engineTurns_commits rfl rfl (bytesKnown_procedureOf hframe)

/-! ### SNS_READ up to its reads (41 R505) -/

/-- From `s` the engine comes to the rest `rest` of its procedure with no NACK that aborts: the ack-waits sampled `acks` and the
events are `es`, one turn an event. -/
def Reaches (s : State) (acks : List Bit) (es : List Event) (rest : List Micro) : Prop :=
  ∃ c d, engineTurns es.length s = .next (carryOn c d false acks es rest s)

/-- Stretches of a procedure put end to end. -/
theorem carryOn_trans {s : State} {c d ab c' d' ab' : Bit} {acks acks' : List Bit} {es es' : List Event}
    {rest rest' : List Micro} (h : engineTurns es.length s = .next (carryOn c d ab acks es rest s))
    (h' : engineTurns es'.length (carryOn c d ab acks es rest s) =
      .next (carryOn c' d' ab' acks' es' rest' (carryOn c d ab acks es rest s))) :
    engineTurns (es ++ es').length s = .next (carryOn c' d' (ab' || ab) (acks ++ acks') (es ++ es') rest' s) := by
  rw [List.length_append, engineTurns_add _ h, h', carryOn_carryOn]

section
variable {s : State} {acks : List Bit} {es : List Event} {rest : List Micro}

/-- A START or repeated START is sent (40 R406). -/
theorem Reaches.start (h : Reaches s acks es (pStart ++ rest)) (hb : s.status.busy = true) :
    Reaches s acks (es ++ startEvents) rest := by
  obtain ⟨c, d, h⟩ := h
  have hrun := carryOn_trans h (carryOn_pStart (rest := rest) hb rfl)
  rw [List.append_nil] at hrun
  exact ⟨_, _, hrun⟩

/-- A byte and its ack-wait, which reads `a` and goes on, or aborts (40 R423). -/
theorem Reaches.afterByte {b : Byte} {a : Bit} (h : Reaches s acks es (ackedWrite (.lit b) ++ rest))
    (hb : s.status.busy = true) (ha : answer s acks.length = a) :
    engineTurns (es ++ ackedEvents [(b, a)]).length s =
      .next (carryOn false true (a && s.regs.abortOnNack) (acks ++ [a]) (es ++ ackedEvents [(b, a)])
        (afterAck s.regs.abortOnNack a rest) s) := by
  obtain ⟨c, d, h⟩ := h
  have hbyte := carryOn_ackedWrite (s := carryOn c d false acks es (ackedWrite (.lit b) ++ rest) s) (rest := rest) (b := b) hb
    rfl rfl
  rw [answer_carryOn, Nat.add_zero, ha, carryOn_regs] at hbyte
  simpa [ackedEvents] using carryOn_trans h hbyte

/-- A byte is sent whose ack-wait lets the procedure go on: it reads ACK, or the policy is continue-on-NACK (40 R423). -/
theorem Reaches.byte {b : Byte} {a : Bit} (h : Reaches s acks es (ackedWrite (.lit b) ++ rest))
    (hb : s.status.busy = true) (ha : answer s acks.length = a) (hgo : (a && s.regs.abortOnNack) = false) :
    Reaches s (acks ++ [a]) (es ++ ackedEvents [(b, a)]) rest := by
  have hrun := h.afterByte hb ha
  rw [afterAck, hgo, if_neg Bool.false_ne_true] at hrun
  exact ⟨_, _, hrun⟩

/-- A byte is sent that is NACKed under abort-on-NACK, and the STOP of its abort (40 R424). -/
theorem Reaches.abort {b : Byte} (h : Reaches s acks es (ackedWrite (.lit b) ++ rest)) (hb : s.status.busy = true)
    (ha : answer s acks.length = true) (habort : s.regs.abortOnNack = true) :
    engineTurns (es ++ ackedEvents [(b, true)] ++ stopEvents).length s =
      .next (carryOn true true true (acks ++ [true]) (es ++ ackedEvents [(b, true)] ++ stopEvents) [] s) := by
  have hrun := h.afterByte hb ha
  rw [habort, Bool.and_self, afterAck, Bool.and_self, if_pos rfl] at hrun
  have hstop := carryOn_trans hrun (carryOn_pStop (rest := []) hb rfl)
  rwa [List.append_nil] at hstop

end

/-- The state in which SNS_READ has been accepted. -/
def acceptedRead (s : State) : State := accept (encode .snsRead) (readProcedure s) .samples .idle s

theorem exec_snsRead {s : State} (h : s.status.phase = .idle) : exec .snsRead s = .next (acceptedRead s) :=
  acceptSequencer_of_idle h

/-- What follows the third ack-wait of an SNS_READ (41 R505). -/
def afterThirdAck : List Micro := burstReads ++ pStop

/-- What follows its second ack-wait: the repeated START and the read address. -/
def afterSecondAck (s : State) : List Micro := pStart ++ (ackedWrite (.lit (addressByte s.regs.snsAddr 1)) ++ afterThirdAck)

/-- What follows its first ack-wait: the register address. -/
def afterFirstAck (s : State) : List Micro := ackedWrite (.lit s.par.regDataFirst) ++ afterSecondAck s

theorem readProcedure_eq (s : State) :
    readProcedure s = pStart ++ (ackedWrite (.lit (addressByte s.regs.snsAddr 0)) ++ afterFirstAck s) := by
  simp only [readProcedure, afterFirstAck, afterSecondAck, afterThirdAck, List.append_assoc]

section
variable {s : State} {a0 a1 a2 : Bit}

theorem reaches_firstByte (s : State) : Reaches (acceptedRead s) [] startEvents
    (ackedWrite (.lit (addressByte s.regs.snsAddr 0)) ++ afterFirstAck s) :=
  ⟨_, _, carryOn_pStart rfl (readProcedure_eq s)⟩

theorem reaches_secondByte (h0 : answer s 0 = a0) (hgo0 : (a0 && s.regs.abortOnNack) = false) :
    Reaches (acceptedRead s) [a0] (startEvents ++ ackedEvents [(addressByte s.regs.snsAddr 0, a0)]) (afterFirstAck s) :=
  (reaches_firstByte s).byte rfl h0 hgo0

theorem reaches_thirdByte (h0 : answer s 0 = a0) (hgo0 : (a0 && s.regs.abortOnNack) = false) (h1 : answer s 1 = a1)
    (hgo1 : (a1 && s.regs.abortOnNack) = false) :
    Reaches (acceptedRead s) [a0, a1]
      (startEvents ++ ackedEvents [(addressByte s.regs.snsAddr 0, a0)] ++ ackedEvents [(s.par.regDataFirst, a1)] ++ startEvents)
      (ackedWrite (.lit (addressByte s.regs.snsAddr 1)) ++ afterThirdAck) :=
  ((reaches_secondByte h0 hgo0).byte rfl h1 hgo1).start rfl

theorem ackedEvents_append (a b : List (Byte × Bit)) : ackedEvents (a ++ b) = ackedEvents a ++ ackedEvents b :=
  List.flatMap_append

/-- The events before the reads, as they come about. -/
theorem readHeadEvents_eq (s : State) (a0 a1 a2 : Bit) : readHeadEvents s a0 a1 a2 =
    startEvents ++ ackedEvents [(addressByte s.regs.snsAddr 0, a0)] ++ ackedEvents [(s.par.regDataFirst, a1)] ++ startEvents ++
      ackedEvents [(addressByte s.regs.snsAddr 1, a2)] := by
  rw [readHeadEvents, ← List.singleton_append, ackedEvents_append, ← List.append_assoc]

/-- An SNS_READ that none of its ack-waits aborts comes to its reads. -/
theorem reaches_reads (hgo : ∀ j < 3, (answer s j && s.regs.abortOnNack) = false) :
    Reaches (acceptedRead s) [answer s 0, answer s 1, answer s 2] (readHeadEvents s (answer s 0) (answer s 1) (answer s 2))
      afterThirdAck := by
  rw [readHeadEvents_eq]
  exact (reaches_thirdByte rfl (hgo 0 (by decide)) rfl (hgo 1 (by decide))).byte rfl rfl (hgo 2 (by decide))

/-! ### SNS_READ that a NACK aborts (40 R424, 41 R507) -/

/-- The commit of an SNS_READ whose last ack-wait aborted it: no sample. -/
theorem commit_abortedRead (s : State) (acks : List Bit) (es : List Event) :
    commit (carryOn true true true (acks ++ [true]) es [] (acceptedRead s)) = afterAbortedRead s es (acks ++ [true]) := by
  have hsampled : (acks ++ [true]).getLastD (acceptedRead s).lines.sampled = true := by simp
  rw [afterAbortedRead, ← countNacks_zero, carryOn, hsampled]
  rfl

theorem engineTurns_abortedRead {n : Nat} {acks : List Bit} {es : List Event} (hn : n = es.length + 1)
    (h : engineTurns es.length (acceptedRead s) = .next (carryOn true true true (acks ++ [true]) es [] (acceptedRead s))) :
    engineTurns n (acceptedRead s) = .next (afterAbortedRead s es (acks ++ [true])) := by
  rw [hn, engineTurns_commit h rfl rfl, commit_abortedRead]

end

/-- Settles O26: the first, second or third byte is the one whose NACK aborts. -/
theorem snsReadAborts : Obligations.SnsReadAborts := by
  intro s hidle habort
  have hack : (false && s.regs.abortOnNack) = false := rfl
  refine ⟨_, exec_snsRead hidle, rfl, fun h0 => ?first, fun h0 h1 => ?second, fun h0 h1 h2 => ?third⟩
  case first => exact engineTurns_abortedRead rfl ((reaches_firstByte s).abort rfl h0 habort)
  case second =>
    have hrun := (reaches_secondByte h0 hack).abort rfl h1 habort
    exact engineTurns_abortedRead rfl hrun
  case third =>
    rw [readHeadEvents_eq]
    exact engineTurns_abortedRead rfl ((reaches_thirdByte h0 hack h1 hack).abort rfl h2 habort)

/-! ### The reads of SNS_READ (41 R505) -/

/-- ENG.buf when the first `n` bytes of a burst are kept, the answers of byte 0 starting at `first`. -/
def burstBuf (ans : Nat → Bit) (first n : Nat) (buf : Vector Byte 14) : Vector Byte 14 :=
  Vector.ofFn fun k => if k.val < n then byteOfAnswers ans (first + 8 * k.val) else buf[k]

theorem burstBuf_zero (ans : Nat → Bit) (first : Nat) (buf : Vector Byte 14) : burstBuf ans first 0 buf = buf := by
  ext i hi
  simp [burstBuf]

theorem burstBuf_succ (ans : Nat → Bit) (first : Nat) (buf : Vector Byte 14) {n : Nat} (hn : n < 14) :
    (burstBuf ans first n buf).set n (byteOfAnswers ans (first + 8 * n)) = burstBuf ans first (n + 1) buf := by
  apply Vector.ext
  intro i hi
  simp only [burstBuf, Vector.getElem_set, Vector.getElem_ofFn]
  split
  · simp_all
  · simp only [show i < n + 1 ↔ i < n by omega]

/-- Field `i` of a burst whose 14 bytes are all kept: its two bytes, high byte first (41 R506). -/
theorem burstField_burstBuf (ans : Nat → Bit) (first : Nat) (buf : Vector Byte 14) (i : Fin 7) :
    burstField (burstBuf ans first 14 buf) i =
      byteOfAnswers ans (first + 8 * (2 * i.val)) ++ byteOfAnswers ans (first + 8 * (2 * i.val + 1)) := by
  simp only [burstField, burstBuf, v16, Vector.getElem_ofFn]
  rw [if_pos (by omega), if_pos (by omega)]

/-- The sample registers of a burst whose 14 bytes are all kept (41 R506, R507). -/
theorem decodeBurst_burstBuf (ans : Nat → Bit) (first : Nat) (buf : Vector Byte 14) :
    decodeBurst (burstBuf ans first 14 buf) = samplesOf fun k => byteOfAnswers ans (first + 8 * k) := by
  simp only [decodeBurst, burstField_burstBuf]
  rfl

/-- The reads of a burst from byte `n` on. -/
def readsFrom (n : Nat) : List Micro := (burstIndices.drop n).flatMap fun k => pRead (decide (k.val < 13)) (.keep k)

theorem burstIndices_drop : ∀ k : Fin 14, burstIndices.drop k = k :: burstIndices.drop (k + 1) := by decide

theorem readsFrom_eq (n : Nat) (h : n < 14) :
    readsFrom n = pRead (decide (n < 13)) (.keep ⟨n, h⟩) ++ readsFrom (n + 1) := by
  rw [readsFrom, burstIndices_drop ⟨n, h⟩, List.flatMap_cons]
  rfl

/-- The events of the first `n` reads. -/
def readsEvents (ans : Nat → Bit) (first n : Nat) : List Event :=
  (List.range n).flatMap fun k => readEvents ans (first + 8 * k) (decide (k < 13))

theorem readsEvents_succ (ans : Nat → Bit) (first n : Nat) :
    readsEvents ans first (n + 1) = readsEvents ans first n ++ readEvents ans (first + 8 * n) (decide (n < 13)) := by
  simp [readsEvents, List.range_succ]

theorem readEvents_of_answers {f g : Nat → Bit} {k : Nat} (h : ∀ j, f j = g (k + j)) (a : Bit) :
    readEvents f 0 a = readEvents g k a := by
  simp only [readEvents, h, Nat.zero_add]

theorem byteOfAnswers_of_answers {f g : Nat → Bit} {k : Nat} (h : ∀ j, f j = g (k + j)) :
    byteOfAnswers f 0 = byteOfAnswers g k := by
  simp only [byteOfAnswers, h, Nat.zero_add]

/-- `s` after `n + 1` reads of a burst, with `rest` left of the procedure. -/
def afterReads (ans : Nat → Bit) (first n : Nat) (rest : List Micro) (s : State) : State :=
  ranTo ⟨false, !decide (n < 13), ans (first + 8 * n + 7)⟩ (readsEvents ans first (n + 1)) rest
    { s with
      env := envAfter s (8 * (n + 1))
      eng := { s.eng with
        shift := byteOfAnswers ans (first + 8 * n)
        buf := burstBuf ans first (n + 1) s.eng.buf } }

/-- The answers to come are those after the reads' samples. -/
theorem answer_afterReads (ans : Nat → Bit) (first n : Nat) (rest : List Micro) (s : State) (j : Nat) :
    answer (afterReads ans first n rest s) j = answer s (8 * (n + 1) + j) := by
  simp only [answer, afterReads, ranTo, envAfter, Nat.add_assoc]

/-- One more read after `n + 1` of them. -/
theorem afterReads_read {ans : Nat → Bit} {first n : Nat} {rest rest' : List Micro} {s : State} (hn : n + 1 < 14) :
    ranTo ⟨false, !decide (n + 1 < 13), ans (first + 8 * (n + 1) + 7)⟩
      (readEvents ans (first + 8 * (n + 1)) (decide (n + 1 < 13))) rest'
      { afterReads ans first n rest s with
        env := envAfter (afterReads ans first n rest s) 8
        eng := { (afterReads ans first n rest s).eng with
          shift := byteOfAnswers ans (first + 8 * (n + 1))
          buf := (afterReads ans first n rest s).eng.buf.set (n + 1) (byteOfAnswers ans (first + 8 * (n + 1))) } } =
      afterReads ans first (n + 1) rest' s := by
  simp only [afterReads, readsEvents_succ ans first (n + 1), ← burstBuf_succ ans first s.eng.buf hn]
  simp only [ranTo, envAfter, List.reverse_append, List.append_assoc, Nat.add_assoc, Nat.mul_add]

/-- One read of a burst, its first answer the `k`-th of `ans`. -/
theorem run_read {s : State} {rest : List Micro} {n : Nat} {ans : Nat → Bit} {k : Nat} (hn : n < 14)
    (hb : s.status.busy = true) (h : s.eng.pos.todo = readsFrom n ++ rest) (hans : ∀ j, answer s j = ans (k + j)) :
    engineTurns 28 s = .next (ranTo ⟨false, !decide (n < 13), ans (k + 7)⟩ (readEvents ans k (decide (n < 13)))
      (readsFrom (n + 1) ++ rest)
      { s with
        env := envAfter s 8
        eng := { s.eng with shift := byteOfAnswers ans k, buf := s.eng.buf.set n (byteOfAnswers ans k) } }) := by
  rw [readsFrom_eq n hn, List.append_assoc] at h
  rw [run_pRead_keep hb h, readEvents_of_answers hans, byteOfAnswers_of_answers hans, hans]

/-- By induction on the reads: each keeps its byte and goes on to the next. -/
theorem run_reads {s : State} {rest : List Micro} {ans : Nat → Bit} {first : Nat} (hb : s.status.busy = true)
    (h : s.eng.pos.todo = readsFrom 0 ++ rest) (hans : ∀ j, answer s j = ans (first + j)) {n : Nat} (hn : n < 14) :
    engineTurns (28 * (n + 1)) s = .next (afterReads ans first n (readsFrom (n + 1) ++ rest) s) := by
  induction n with
  | zero =>
    rw [run_read hn hb h hans, afterReads, ← burstBuf_succ ans first s.eng.buf hn, burstBuf_zero]
    rfl
  | succ n ih =>
    have hread := run_read (s := afterReads ans first n (readsFrom (n + 1) ++ rest) s) hn hb rfl fun j =>
      (answer_afterReads ..).trans (by rw [hans, Nat.add_assoc])
    rw [Nat.mul_succ, engineTurns_add _ (ih (by omega)), hread, afterReads_read hn]

/-! ### SNS_READ that reaches its STOP (41 R505, R507) -/

/-- The commit of an SNS_READ after its head, its 14 reads and its STOP. -/
theorem commit_read (s : State) (c d : Bit) :
    commit (ranTo ⟨true, true, answer s 114⟩ stopEvents []
      (afterReads (answer s) 3 13 pStop
        (carryOn c d false [answer s 0, answer s 1, answer s 2] (readHeadEvents s (answer s 0) (answer s 1) (answer s 2))
          afterThirdAck (acceptedRead s)))) = afterRead s := by
  rw [afterRead, ← countNacks_zero, ← decodeBurst_burstBuf (answer s) 3 Engine.idle.buf]
  simp only [withEvents, List.reverse_append, List.append_assoc]
  rfl

theorem length_readHeadEvents (s : State) (a0 a1 a2 : Bit) : (readHeadEvents s a0 a1 a2).length = 92 := rfl

/-- From the reads of an SNS_READ to its commit. -/
theorem engineTurns_reads (s : State) (c d : Bit) :
    engineTurns (28 * 14 + 3 + 1) (carryOn c d false [answer s 0, answer s 1, answer s 2]
      (readHeadEvents s (answer s 0) (answer s 1) (answer s 2)) afterThirdAck (acceptedRead s)) = .next (afterRead s) := by
  have hreads := run_reads (rest := pStop) (ans := answer s) (first := 3)
    (s := carryOn c d false [answer s 0, answer s 1, answer s 2] (readHeadEvents s (answer s 0) (answer s 1) (answer s 2))
      afterThirdAck (acceptedRead s)) rfl rfl (fun j => answer_carryOn ..) (n := 13) (by decide)
  have hstop := run_pStop (rest := []) (s := afterReads (answer s) 3 13 pStop
    (carryOn c d false [answer s 0, answer s 1, answer s 2] (readHeadEvents s (answer s 0) (answer s 1) (answer s 2))
      afterThirdAck (acceptedRead s))) rfl rfl
  rw [engineTurns_commit ((engineTurns_add 3 hreads).trans hstop) rfl rfl]
  exact congrArg Host.Outcome.next (commit_read s c d)

/-- No ack-wait aborts under continue-on-NACK, or when each reads ACK (40 R423). -/
theorem goesOn_of_policy_or_acks {s : State}
    (h : s.regs.abortOnNack = false ∨ (answer s 0 = false ∧ answer s 1 = false ∧ answer s 2 = false)) :
    ∀ j < 3, (answer s j && s.regs.abortOnNack) = false := by
  intro j hj
  rcases h with hpolicy | ⟨h0, h1, h2⟩
  · rw [hpolicy, Bool.and_false]
  · obtain rfl | rfl | rfl : j = 0 ∨ j = 1 ∨ j = 2 := by omega
    · rw [h0, Bool.false_and]
    · rw [h1, Bool.false_and]
    · rw [h2, Bool.false_and]

/-- Settles O25: the head of 92 steps, the 14 reads, the STOP and the commit. -/
theorem snsReadCompletes : Obligations.SnsReadCompletes := by
  intro s hidle hgo
  obtain ⟨c, d, hhead⟩ := reaches_reads (goesOn_of_policy_or_acks hgo)
  rw [length_readHeadEvents] at hhead
  exact ⟨_, exec_snsRead hidle, rfl, (engineTurns_add 396 hhead).trans (engineTurns_reads s c d)⟩

end Sys2Proof.Machine

/-! PROOFS of the statements on the sensor reader (41): the dump that the sample registers give back, the host records of a
burst, and the scaled values of its fields. -/

namespace Sys2Proof.Machine

/-! ### The bytes of a burst field (41 R506) -/

@[simp] theorem extractLsb'_high_v16 (hi lo : Byte) : (v16 hi lo).extractLsb' 8 8 = hi :=
  BitVec.extractLsb'_append_eq_left

@[simp] theorem extractLsb'_low_v16 (hi lo : Byte) : (v16 hi lo).extractLsb' 0 8 = lo :=
  BitVec.extractLsb'_append_eq_right

/-- A 14-byte dump is its seven byte pairs in order. -/
theorem toList_eq_flatMap_pairs (buf : Vector Byte 14) :
    buf.toList = (List.finRange 7).flatMap fun i => [buf[2 * i.val], buf[2 * i.val + 1]] :=
  calc
    buf.toList = (Vector.ofFn fun k : Fin 14 => buf[k.val]).toList := by rw [Vector.ofFn_getElem]
    _ = List.ofFn fun k : Fin 14 => buf[k.val] := Vector.toList_ofFn
    _ = _ := rfl

/-! ### Packing the values back (41 R508) -/

/-- Packing undoes the reading of the seven values, pair by pair. -/
theorem packBigEndian_burstField (buf : Vector Byte 14) :
    packBigEndian ((List.finRange 7).map (burstField buf)) = buf.toList := by
  simp only [packBigEndian, List.flatMap_map, burstField, extractLsb'_high_v16, extractLsb'_low_v16,
    toList_eq_flatMap_pairs buf]

/-- The low halves of the seven sample registers are the seven values of the burst. -/
theorem lowHalves_decodeBurst (buf : Vector Byte 14) :
    ([(decodeBurst buf).ax, (decodeBurst buf).ay, (decodeBurst buf).az, (decodeBurst buf).t,
      (decodeBurst buf).gx, (decodeBurst buf).gy, (decodeBurst buf).gz].map fun w => w.extractLsb' 0 16) =
      (List.finRange 7).map (burstField buf) :=
  calc
    _ = (List.finRange 7).map (rawField (decodeBurst buf)) := rfl
    _ = _ := List.map_congr_left fun i _ => rawField_decodeBurst buf i

/-- Settles O55: the values pack back pair by pair, and the low halves of the sample registers are those values. -/
theorem burstDecodeIsInvertible : Obligations.BurstDecodeIsInvertible := by
  intro buf
  rw [lowHalves_decodeBurst]
  exact ⟨packBigEndian_burstField buf, packBigEndian_burstField buf⟩

/-! ### The host records (41 R509, R510) -/

/-- A record field is made of the low half of its sample register alone. -/
theorem recordField_sampleReg (s : Samples) (i : Fin 7) :
    recordField (sampleReg s i) = [(rawField s i).extractLsb' 0 8, (rawField s i).extractLsb' 8 8] := by
  rw [rawField, BitVec.extractLsb'_extractLsb'_of_le (by omega), BitVec.extractLsb'_extractLsb'_of_le (by omega)]
  rfl

/-- The record field of a decoded burst is its byte pair, low byte first. -/
theorem recordField_decodeBurst (buf : Vector Byte 14) (i : Fin 7) :
    recordField (sampleReg (decodeBurst buf) i) = [buf[2 * i.val + 1], buf[2 * i.val]] := by
  rw [recordField_sampleReg, rawField_decodeBurst, burstField, extractLsb'_low_v16, extractLsb'_high_v16]

theorem recordA_eq_flatMap (s : Samples) :
    recordA s = ([0, 1, 2] : List (Fin 7)).flatMap fun i => recordField (sampleReg s i) := rfl

theorem recordB_eq_flatMap (s : Samples) :
    recordB s = (List.finRange 7).flatMap fun i => recordField (sampleReg s i) := rfl

/-- Settles O57: each record is the fields it names in order, each field its byte pair swapped. -/
theorem hostRecordsAreLittleEndian : Obligations.HostRecordsAreLittleEndian := by
  intro buf
  simp only [recordA_eq_flatMap, recordB_eq_flatMap, recordField_decodeBurst]
  exact ⟨rfl, rfl⟩

/-! ### The scaled values (41 R511) -/

theorem scaledField_accel (s : Samples) {i : Fin 7} (h : i.val ≤ 2) : scaledField s i = accelScaled (rawField s i) :=
  if_pos h

theorem scaledField_temp (s : Samples) : scaledField s 3 = tempScaled (rawField s 3) := rfl

theorem scaledField_gyro (s : Samples) {i : Fin 7} (h : 4 ≤ i.val) : scaledField s i = gyroScaled (rawField s i) := by
  rw [scaledField, if_neg (by omega), if_neg (by omega)]

/-- Settles O60: the index of a field picks its scale, and the raw value of a decoded field is the field of the burst. -/
theorem scaledValuesOfASample : Obligations.ScaledValuesOfASample := by
  intro buf
  refine ⟨fun i hi => ?accel, ?temp, fun i hi => ?gyro, fun i => ?line⟩
  case accel => rw [scaledField_accel _ hi, rawField_decodeBurst, accelScaled]
  case temp => rw [scaledField_temp, rawField_decodeBurst, tempScaled]
  case gyro => rw [scaledField_gyro _ hi, rawField_decodeBurst, gyroScaled]
  case line => rw [attributeLine, rawField_decodeBurst]

end Sys2Proof.Machine

/-! PROOFS of the statements on the display's frames (42): the chunks that a frame is cut into, and what a frame that ends with
ERR = NONE has put on the bus. -/

namespace Sys2Proof.Machine

/-! ### Where each chunk stands in the frame (42 R608) -/

theorem length_frameChunks (c : Nat) : (frameChunks c).length = chunkCount c := by simp [frameChunks]

theorem getElem_frameChunks {c k : Nat} (h : k < (frameChunks c).length) : (frameChunks c)[k] = chunkIndices c k := by
  simp [frameChunks]

/-- Every chunk starts inside the frame. -/
theorem chunkStart_lt_frameBytes {c k : Nat} (hc : 1 ≤ c) (hk : k < chunkCount c) : k * c < frameBytes := by
  have hmul : (k + 1) * c ≤ frameBytes + c - 1 := (Nat.le_div_iff_mul_le hc).1 hk
  rw [Nat.succ_mul] at hmul
  omega

/-- A chunk that starts inside the frame has its first index there. -/
theorem head?_chunkIndices {c k : Nat} (hc : 1 ≤ c) (h : k * c < frameBytes) : (chunkIndices c k).head? = some (k * c) := by
  rw [chunkIndices, List.head?_range', if_neg (by omega)]

/-- The last chunk has what is left of the frame, every other one `c` bytes. -/
theorem length_chunkIndices {c k : Nat} (hc : 1 ≤ c) (hk : k < chunkCount c) :
    (chunkIndices c k).length = if k + 1 = chunkCount c then frameBytes - k * c else c := by
  rw [chunkIndices, List.length_range']
  split
  case isTrue hlast =>
    have hend := frameBytes_le_chunkCount_mul hc
    rw [← hlast, Nat.succ_mul] at hend
    rw [Nat.min_eq_right hend]
  case isFalse hmore =>
    have hnext := chunkStart_lt_frameBytes hc (show k + 1 < chunkCount c by omega)
    rw [Nat.succ_mul] at hnext
    omega

/-- Settles O32: the chunks end to end are the frame, and each starts at its own multiple of the chunk size. -/
theorem chunksPartitionTheFrame : Obligations.ChunksPartitionTheFrame := by
  intro c hc _
  refine ⟨length_frameChunks c, flatten_frameChunks hc, fun k hk => ?_⟩
  rw [getElem_frameChunks hk, length_frameChunks c]
  rw [length_frameChunks c] at hk
  exact ⟨head?_chunkIndices hc (chunkStart_lt_frameBytes hc hk), length_chunkIndices hc hk⟩

/-! ### A command that a NACK aborted ends with ERR = NACK (40 R424) -/

/-- A NACK has aborted the running command, or the command has ended with ERR = NACK. -/
structure NackedEnd (s : State) : Prop where
  running : s.status.busy = true → s.eng.pos.aborted = true
  ended : s.status.busy = false → s.status.err = .nack

/-- A micro-step goes on to the rest of the procedure, or aborts the command. -/
theorem microStep_todo_or_aborted {m : Micro} {s u : State} (h : microStep m s = .next u) :
    (u.eng.pos.todo = s.eng.pos.todo ∧ u.eng.pos.aborted = s.eng.pos.aborted) ∨ u.eng.pos.aborted = true := by
  rcases microStep_next h with ⟨v, -, rfl⟩ | ⟨v, -, rfl⟩ | ⟨src, i, b, -, -, rfl⟩ | ⟨-, rfl⟩ | ⟨i, -, rfl⟩ | ⟨-, rfl⟩ |
    ⟨-, rfl⟩ | ⟨k, -, rfl⟩
  case inr.inr.inr.inr.inr.inr.inl =>
    unfold noteAckSeq
    dsimp only
    split
    · exact .inr rfl
    · exact .inl ⟨rfl, rfl⟩
  all_goals exact .inl ⟨rfl, rfl⟩

theorem engineTurn_nackedEnd {s u : State} (hs : NackedEnd s) (h : engineTurn s = .next u) : NackedEnd u := by
  rcases engineTurn_next h with ⟨-, rfl⟩ | ⟨hb, -, rfl⟩ | ⟨m, rest, hb, -, hm⟩
  · exact hs
  · exact ⟨fun hbusy => by simp at hbusy, fun _ => by rw [commit_err, hs.running hb]; rfl⟩
  · have hbusy : u.status.busy = true := by rw [(engineTurn_micro_frame hm).status, hb]
    refine ⟨fun _ => ?_, fun hidle => by simp [hbusy] at hidle⟩
    rcases microStep_todo_or_aborted hm with ⟨-, hsame⟩ | habort
    · exact hsame.trans (hs.running hb)
    · exact habort

/-! ### A command that ends with ERR = NONE knew every byte of its procedure (70 R804) -/

/-- A micro-step that answers knows the byte it sends. -/
theorem sourceByte_of_microStep {src : ByteSrc} {i : Nat} {s u : State} (h : microStep (.sdaBit src i) s = .next u) :
    ∃ b, sourceByte s.fb src = .ok b := by
  simp only [microStep] at h
  split at h
  · exact ⟨_, ‹_›⟩
  · cases h

/-- By induction on the turns: no turn stopped at an unwritten byte, and none aborted, so all of the procedure was run. -/
theorem bytesKnown_of_ended {n : Nat} {s u : State} (hb : s.status.busy = true) (hrun : engineTurns n s = .next u)
    (hu : u.status.busy = false) (herr : u.status.err = .none) : BytesKnown s.fb s.eng.pos.todo := by
  induction n generalizing s with
  | zero => cases hrun; simp [hb] at hu
  | succ n ih =>
    obtain ⟨v, hturn, hrest⟩ := engineTurns_succ_next hrun
    rcases engineTurn_next hturn with ⟨hidle, -⟩ | ⟨-, hdone, -⟩ | ⟨m, rest, -, htodo, hm⟩
    · simp [hb] at hidle
    · exact bytesKnown_of_no_bytes _ (by simp [hdone])
    · have hf := engineTurn_micro_frame hm
      have hbusy : v.status.busy = true := by rw [hf.status, hb]
      rcases microStep_todo_or_aborted hm with ⟨hgoes, -⟩ | habort
      · have hknown := ih hbusy hrest
        rw [hf.engine.fb, hgoes] at hknown
        rw [htodo]
        intro src i hmem
        rcases List.mem_cons.1 hmem with rfl | hmem
        · exact sourceByte_of_microStep (s := settled (setTodo rest s)) hm
        · exact hknown src i hmem
      · have hnack : NackedEnd v := ⟨fun _ => habort, fun hidle => by simp [hbusy] at hidle⟩
        have hend := (engineTurns_keeps (fun _ _ => engineTurn_nackedEnd) hnack hrest).ended hu
        simp [herr] at hend

/-- A write transaction whose bytes are all known knows those after its address. -/
theorem sourceByte_of_bytesKnown_wrTxn {m : Memory} {a7 : BitVec 7} {srcs : List ByteSrc} (h : BytesKnown m (wrTxn a7 srcs))
    {src : ByteSrc} (hsrc : src ∈ srcs) : ∃ b, sourceByte m src = .ok b := by
  have hbit : Micro.sdaBit src 7 ∈ ackedWrite src := List.mem_append_left _ List.mem_cons_self
  have hbytes : Micro.sdaBit src 7 ∈ srcs.flatMap ackedWrite := List.mem_flatMap.2 ⟨src, hsrc, hbit⟩
  exact h src 7 (List.mem_append_left _ (List.mem_append_right _ hbytes))

/-- A frame whose bytes are all known is written, each byte being in one of its chunks. -/
theorem frameWritten_of_bytesKnown {s : State} (hc : 1 ≤ s.regs.chunk.toNat) (h : BytesKnown s.fb (frameProcedure s)) :
    frameWritten s.fb := by
  intro a ha
  rw [← List.mem_range, ← flatten_frameChunks hc, List.mem_flatten] at ha
  obtain ⟨c, hmem, ha⟩ := ha
  have htxn : BytesKnown s.fb (dataTxn s (c.map .fb)) := fun src i hi => h src i (List.mem_flatMap.2 ⟨c, hmem, hi⟩)
  obtain ⟨b, hb⟩ := sourceByte_of_bytesKnown_wrTxn htxn (List.mem_cons_of_mem _ (List.mem_map_of_mem ha))
  cases hread : s.fb.read a with
  | some b => rfl
  | none => simp [sourceByte, hread] at hb

/-! ### A run to the end of a command ends in one state -/

theorem engineTurns_of_not_busy {s : State} (hb : s.status.busy = false) (n : Nat) : engineTurns n s = .next s := by
  induction n with
  | zero => rfl
  | succ n ih =>
    have hturn : engineTurn s = .next s := by simp [engineTurn, hb]
    rw [engineTurns_succ hturn, ih]

/-- Once BUSY = 0, further turns change nothing. -/
theorem ended_run_unique {m n : Nat} {s u v : State} (hu : engineTurns m s = .next u) (hub : u.status.busy = false)
    (hv : engineTurns n s = .next v) (hvb : v.status.busy = false) : u = v := by
  have hends {k : Nat} {w : State} (l : Nat) (hw : engineTurns k s = .next w) (hwb : w.status.busy = false) :
      engineTurns (k + l) s = .next w := (engineTurns_add l hw).trans (engineTurns_of_not_busy hwb l)
  have hsame := hends n hu hub
  rw [Nat.add_comm, hends m hv hvb] at hsame
  cases hsame
  rfl

/-! ### What a frame sends (42 R615) -/

/-- What a CMD write of DSP_WRITE_FRAME can do: reject it, or accept a frame that passes the checks of R609. -/
theorem dspWriteFrame_next {len : BitVec 11} {s t : State} (h : exec (.dspWriteFrame len) s = .next t) :
    (∃ c, t = cmdError c s) ∨
    (s.status.phase = .idle ∧ len = 1024 ∧ 1 ≤ s.regs.chunk.toNat ∧ s.regs.chunk.toNat ≤ 1024 ∧
      t = accept (encode (.dspWriteFrame len)) (frameProcedure s) .none .idle s) := by
  by_cases hidle : s.status.phase = .idle
  · by_cases hwrong : len ≠ 1024 ∨ s.regs.chunk = 0 ∨ 1024 < s.regs.chunk.toNat
    · cases (exec_dspWriteFrame_of_invalid hidle hwrong).symm.trans h
      exact .inl ⟨.inval, rfl⟩
    · cases (exec_dspWriteFrame_of_valid hidle hwrong).symm.trans h
      simp only [not_or, ne_eq, Classical.not_not, Nat.not_lt] at hwrong
      obtain ⟨hlen, hmin, hmax⟩ := hwrong
      exact .inr ⟨hidle, hlen, Nat.one_le_iff_ne_zero.2 fun hzero => hmin (BitVec.eq_of_toNat_eq hzero), hmax, rfl⟩
  · cases (exec_dspWriteFrame_of_phase hidle).symm.trans h
    exact .inl ⟨.seq, rfl⟩

/-- A frame that ends with ERR = NONE is written, and leaves what its transactions leave. -/
theorem frame_ended {s t u : State} {len : BitVec 11} {n : Nat} (hb : s.status.busy = false)
    (h : exec (.dspWriteFrame len) s = .next t) (ht : t.status.busy = true) (hrun : engineTurns n t = .next u)
    (hu : u.status.busy = false) (herr : u.status.err = .none) :
    1 ≤ s.regs.chunk.toNat ∧ frameWritten s.fb ∧ u = afterTransactions s (frameTransactions s) := by
  rcases dspWriteFrame_next h with ⟨c, rfl⟩ | ⟨hidle, rfl, hmin, hmax, rfl⟩
  case inl => simp [hb] at ht
  have hfb : frameWritten s.fb := frameWritten_of_bytesKnown hmin (bytesKnown_of_ended rfl hrun hu herr)
  obtain ⟨t', hexec, -, hend⟩ := dspWriteFrameRuns s hidle hmin hmax hfb
  cases h.symm.trans hexec
  exact ⟨hmin, hfb, ended_run_unique hrun hu hend rfl⟩

theorem afterTransactions_err (s : State) (txns : List (List Byte)) :
    (afterTransactions s txns).status.err = if (carried s txns).2 then .nack else .none := rfl

theorem afterTransactions_trace (s : State) (txns : List (List Byte)) :
    (afterTransactions s txns).trace = s.trace ++ (carried s txns).1.flatMap txnEvents := trace_withEvents ..

/-- Write transactions that end with ERR = NONE are sent whole (40 R424, R425). -/
theorem carried_bytes_of_no_error {s : State} {txns : List (List Byte)} (h : (afterTransactions s txns).status.err = .none) :
    (carried s txns).1.map (fun x => x.map (·.1)) = txns := by
  refine (carryAll_bytes s.regs.abortOnNack (answer s) 0 txns).2 ?_
  rw [afterTransactions_err] at h
  cases hab : (carried s txns).2 with
  | true => simp [hab] at h
  | false => exact hab

/-- The data bytes of a frame's transactions, end to end, are FB. -/
theorem frameTransactions_data {s : State} (hc : 1 ≤ s.regs.chunk.toNat) (hfb : frameWritten s.fb) :
    ((frameTransactions s).flatMap (·.drop 2)).map some = (List.range frameBytes).map s.fb.read := by
  have hdata : (frameTransactions s).flatMap (·.drop 2) = (List.range frameBytes).map fun j => (s.fb.read j).getD 0 := by
    rw [← flatten_frameChunks hc, List.map_flatten, frameTransactions, List.flatMap_map]
    rfl
  rw [hdata, List.map_map]
  refine List.map_congr_left fun j hj => ?_
  obtain ⟨b, hb⟩ := Option.isSome_iff_exists.1 (hfb j (List.mem_range.1 hj))
  simp [hb]

/-- Settles O33: ERR = NONE says that every byte was written and no NACK ended the frame, so its transactions were sent whole; a
wrong length is rejected, and the engine does nothing. -/
theorem frameIsSentWhole : Obligations.FrameIsSentWhole := by
  refine ⟨fun s t u len n hb h ht hrun hu herr => ?sent, fun s t u len n hb hlen h hrun => ?wrong⟩
  case sent =>
    obtain ⟨hc, hfb, rfl⟩ := frame_ended hb h ht hrun hu herr
    have hwhole := carried_bytes_of_no_error herr
    have hdata : ((carried s (frameTransactions s)).1.flatMap fun x => (x.map (·.1)).drop 2).map some =
        (List.range 1024).map s.fb.read := by
      have hframe := frameTransactions_data hc hfb
      rwa [← hwhole, List.flatMap_map] at hframe
    refine ⟨(carried s (frameTransactions s)).1, afterTransactions_trace .., fun x hx => ?heads, hdata, ?sizes⟩
    case heads =>
      have hbytes := List.mem_map_of_mem (f := fun x => x.map (·.1)) hx
      rw [hwhole] at hbytes
      obtain ⟨c, -, hchunk⟩ := List.mem_map.1 hbytes
      rw [← hchunk]
      rfl
    case sizes =>
      have hlength := congrArg List.length hdata
      simpa [List.length_flatMap] using hlength
  case wrong =>
    rcases dspWriteFrame_next h with ⟨c, rfl⟩ | ⟨-, hright, -⟩
    case inr => exact absurd hright hlen
    cases (engineTurns_of_not_busy (s := cmdError c s) hb n).symm.trans hrun
    rfl

end Sys2Proof.Machine

/-! PROOFS of the statements on reset and its hazards (70): which framebuffer reads meet an unwritten byte, what the registers read
after reset, and what the reset input leaves of a command. -/

namespace Sys2Proof.Machine

/-! ### Unwritten framebuffer bytes (70 R804) -/

/-- The byte a word read stops at is one of the word's own, and unwritten. -/
theorem fbWord_error {m : Memory} {j : Nat} {f : Fault} (h : fbWord m j = .error f) :
    ∃ k, k < 4 ∧ f = .unwrittenFb (4 * j + k) ∧ m.read (4 * j + k) = none := by
  unfold fbWord at h
  split at h
  case h_1 => cases h
  case h_2 h0 => cases h; exact ⟨0, by omega, rfl, h0⟩
  case h_3 h1 _ => cases h; exact ⟨1, by omega, rfl, h1⟩
  case h_4 h2 _ _ => cases h; exact ⟨2, by omega, rfl, h2⟩
  case h_5 h3 _ _ _ => cases h; exact ⟨3, by omega, rfl, h3⟩

/-- Every byte of a word that is read has been written. -/
theorem read_ne_none_of_fbWord_ok {m : Memory} {j k : Nat} {v : Word} (h : fbWord m j = .ok v) (hk : k < 4) :
    m.read (4 * j + k) ≠ none := by
  obtain ⟨b0, b1, b2, b3, h0, h1, h2, h3, -⟩ := (fbWord_ok_iff m j v).1 h
  obtain rfl | rfl | rfl | rfl : k = 0 ∨ k = 1 ∨ k = 2 ∨ k = 3 := by omega
  · simp [h0]
  · simp [h1]
  · simp [h2]
  · simp [h3]

theorem fbWord_unwritten_iff (m : Memory) (j : Nat) :
    (∃ i, fbWord m j = .error (.unwrittenFb i)) ↔ ∃ k, k < 4 ∧ m.read (4 * j + k) = none := by
  constructor
  · rintro ⟨i, h⟩
    obtain ⟨k, hk, -, hnone⟩ := fbWord_error h
    exact ⟨k, hk, hnone⟩
  · rintro ⟨k, hk, hnone⟩
    cases h : fbWord m j with
    | ok v => exact absurd hnone (read_ne_none_of_fbWord_ok h hk)
    | error f =>
      obtain ⟨k', -, rfl, -⟩ := fbWord_error h
      exact ⟨_, rfl⟩

theorem hostRead_fb (s : State) {j : Nat} (h : j < 256) : hostRead (0x400 + 4 * j) 4 s = fbWord s.fb j :=
  hostRead_of_reg s (accessReg_fb h)

/-- Settles O17: the read is that of the framebuffer word, whose four bytes are looked up one by one. -/
theorem unwrittenFramebufferReadFaults : Obligations.UnwrittenFramebufferReadFaults := by
  refine ⟨fun s j hj => ?fault, fun s a => ?reset⟩
  case fault =>
    rw [hostRead_fb s hj]
    exact fbWord_unwritten_iff s.fb j
  case reset => rw [resetInput_fb, Memory.read_nil]

/-! ### The registers after reset (70 R802) -/

/-- With nothing written the first byte of the word is the one the read stops at. -/
theorem fbWord_nil (j : Nat) : fbWord [] j = .error (.unwrittenFb (4 * j)) := by
  simp [fbWord]

theorem hostRead_cmd (s : State) : hostRead 0x00C 4 s = .ok 0 := rfl

/-- Settles O51: each register reads its field, and its field holds the reset value. -/
theorem registersAfterReset : Obligations.RegistersAfterReset := by
  intro p
  obtain ⟨hctrl, hdelay, hrx, hsns, hdsp, hcfg, hchunk, hax, hay, haz, ht, hgx, hgy, hgz⟩ :=
    registersReadTheirFields (State.resetWith p)
  obtain ⟨-, -, -, hstatus, -⟩ := statusRegisterLayout
  obtain ⟨-, hlines, -⟩ := linesRegisterIsLive
  refine ⟨hctrl.trans ?ctrl, hdelay, hstatus p, hostRead_cmd _, hrx.trans ?rxData, hlines p, hsns, hdsp, hcfg, hchunk, ?samples,
    fun j hj => ?fb⟩
  case ctrl => exact congrArg Except.ok (show 0#31 ++ BitVec.ofBool true = 1 by decide)
  case rxData => exact congrArg Except.ok (show 0#24 ++ (0 : Byte) = 0 by decide)
  case samples =>
    simp only [List.forall_mem_cons]
    exact ⟨hax, hay, haz, ht, hgx, hgy, hgz, List.forall_mem_nil _⟩
  case fb => exact (hostRead_fb _ hj).trans (fbWord_nil j)

/-! ### The reset input (70 R801, R803, R805) -/

/-- What a host reads is a matter of the registers alone. -/
theorem hostRead_congr {s t : State} (h : ∀ r, regRead s r = regRead t r) (off size : Nat) :
    hostRead off size s = hostRead off size t := by
  cases hacc : accessReg off size with
  | error f => rw [hostRead_of_error _ hacc, hostRead_of_error _ hacc]
  | ok r => rw [hostRead_of_reg _ hacc, hostRead_of_reg _ hacc, h r]

theorem regRead_resetInput (s : State) (r : RegName) : regRead (resetInput s) r = regRead (State.resetWith s.par) r := by
  cases r <;> rfl

/-- The fake script is at its start. -/
theorem envSda_resetInput {s : State} (h : s.par.backend = .fake) :
    envSda (resetInput s) = s.par.fakeScript.getD 0 true :=
  envSda_fake (s := resetInput s) h

/-- Settles O52: the step is the reset input's turn, which builds the device anew from its parameters and keeps the agents around
it. -/
theorem resetInputEndsTheCommand : Obligations.ResetInputEndsTheCommand := by
  intro s ts h
  refine ⟨resetInput { s with turns := ts }, ?step, rfl, rfl, rfl, rfl, rfl, rfl, ?status, rfl, rfl, rfl, ?reads,
    envSda_resetInput (s := { s with turns := ts }), rfl, rfl⟩
  case step => rw [step_reset (nextTurn_listed h), dropTurn_listed h]
  case status => exact show statusWord ⟨false, false, .idle, .none, 0, false⟩ = 0 by decide
  case reads => exact hostRead_congr (regRead_resetInput { s with turns := ts })

end Sys2Proof.Machine
